-- ==== Sys2Proof/Word.lean ====
section
/-! DEFINITION. The words of B64URL_CORE that have one fixed width (00_scope.md R10, R11). Lengths and input units
have parameter widths (R8, R9); they are natural numbers with their range in an invariant (log 4). -/

namespace Sys2Proof

/-- An 8-bit unit: a byte, or the 8-bit code of a character (R45). -/
abbrev Byte := BitVec 8

/-- A 6-bit value of the alphabet, 0 to 63 (R17 "code"). -/
abbrev Code := BitVec 6

/-- The 24-bit group that the block transform works on (R41, R42). -/
abbrev Group := BitVec 24

end Sys2Proof
end

