-- ==== Sys2Proof/Config.lean ====
section
/-! DEFINITION. What an implementation of B64URL_CORE fixes (LEN_W and CHAR_W, R8 and R9), the record of the sampled
input ports (R34, R148), and the model's one free value: what the host drives in a cycle nothing else gives. -/

namespace Sys2Proof

/-- The implementation parameters, "a named parameter the model takes as an argument" (R8, R9). The bounds are the
rules' own, carried with the values, so that no illegal parameter can be written. -/
structure Config.Params where
  /-- LEN_W, the width of a stream length and of the remaining-units counter (R8). -/
  lenW : Nat
  /-- CHAR_W, the width of a unit on the input port (R9). -/
  charW : Nat
  lenW_ge : 2 ≤ lenW := by decide
  charW_ge : 8 ≤ charW := by decide
  deriving DecidableEq, Repr

/-- The example values of R8 and R9, LEN_W = 16 and CHAR_W = 16; spec/opcode_table.json is numbered for them (R61).
DESIGN CHOICE, log 1: the spec leaves both open. -/
def Config.example16 : Config.Params := { lenW := 16, charW := 16 }

/-- The input ports as sampled at one rising edge of `clk` (R34, R148). Bits a port does not have are cut off when the
port is sampled (Machine.State.sampled). -/
structure Config.Inputs where
  /-- `rst_n`; false is reset (R200). -/
  rstN : Bool
  cmdValid : Bool
  cmdOp : BitVec 3
  cmdLen : Nat
  inValid : Bool
  inData : Nat
  outReady : Bool
  deriving DecidableEq, Repr, Inhabited

/-- A cycle in which the host drives nothing: `rst_n` = 1 and every valid signal low (R69 "NOP"), with the consumer's
level as given. -/
def Config.Inputs.quiet (outReady : Bool) : Config.Inputs :=
  { rstN := true, cmdValid := false, cmdOp := 0, cmdLen := 0, inValid := false, inData := 0, outReady := outReady }

/-- FREE VALUE (log 3): what the host drives in a cycle that State.inputs does not give. The host is outside the block
and may drive anything, so nothing constrains it. -/
opaque Config.undrivenInputs : Nat → Config.Inputs

end Sys2Proof
end

