-- ==== Sys2Proof/Syntax.lean ====
section
/-! DEFINITION. The transactions that program B64URL_CORE (30_encoding.md), and the names of its control states,
directions and status codes. One constructor of `Instr` per row of spec/opcode_table.json. -/

namespace Sys2Proof

/-- The control state `st` (R22). -/
inductive Ctl where
  | idle
  | run
  | drain
  | fin
  deriving DecidableEq, Repr

/-- The direction `dir` (R23). -/
inductive Dir where
  | enc
  | dec
  deriving DecidableEq, Repr

/-- The status names of R31, the values of `stat` and `rsp_status`. -/
inductive Status where
  | ok
  | invalidLength
  | invalidCharacter
  | badCommand
  deriving DecidableEq, Repr

/-- The transactions on the input ports: a command beat with its length operand `n` (R61, R63), or an input beat with
its unit `u` (R64). Which of the three input forms a beat is, `st` and `dir` say, not its bits (R64). -/
inductive Instr where
  /-- LEN_ENC, R95 -/
  | lenEnc (n : Nat)
  /-- LEN_DEC, R96 -/
  | lenDec (n : Nat)
  /-- ENC, R104 -/
  | enc (n : Nat)
  /-- DEC, R126 -/
  | dec (n : Nat)
  /-- cmd_op 0b000, R173 -/
  | reserved000 (n : Nat)
  /-- cmd_op 0b101, R173 -/
  | reserved101 (n : Nat)
  /-- cmd_op 0b110, R173 -/
  | reserved110 (n : Nat)
  /-- cmd_op 0b111, R173 -/
  | reserved111 (n : Nat)
  /-- IN_ENC, R105 -/
  | inEnc (u : Nat)
  /-- IN_DEC, R127 -/
  | inDec (u : Nat)
  /-- IN_DRAIN, R145 -/
  | inDrain (u : Nat)
  deriving DecidableEq, Repr

/-- One beat of an input port, as bits (R60): a CMD beat written as the packed word CW of R61, or an IN beat. -/
inductive Beat where
  | cmd (cw : Nat)
  | unit (data : Nat)
  deriving DecidableEq, Repr

end Sys2Proof
end

