-- ==== Sys2Proof/WellFormed.lean ====
section
/-! DEFINITION. Which transactions exist: an operand fits the port that carries it (R61, R63, R64). -/

namespace Sys2Proof

/-- The operand of `i` fits its port: a length in LEN_W bits (R63), a unit in CHAR_W bits (R64). -/
def Instr.wellFormed (p : Config.Params) : Instr → Bool
  | .lenEnc n => decide (n < 2 ^ p.lenW)
  | .lenDec n => decide (n < 2 ^ p.lenW)
  | .enc n => decide (n < 2 ^ p.lenW)
  | .dec n => decide (n < 2 ^ p.lenW)
  | .reserved000 n => decide (n < 2 ^ p.lenW)
  | .reserved101 n => decide (n < 2 ^ p.lenW)
  | .reserved110 n => decide (n < 2 ^ p.lenW)
  | .reserved111 n => decide (n < 2 ^ p.lenW)
  | .inEnc u => decide (u < 2 ^ p.charW)
  | .inDec u => decide (u < 2 ^ p.charW)
  | .inDrain u => decide (u < 2 ^ p.charW)

end Sys2Proof
end

