-- ==== Sys2Proof/Decode.lean ====
section
/-! DEFINITION. Decoding a beat into a transaction, total and rejecting by name, and the encoder after it
(30_encoding.md R60 to R64, R67, R68). -/

namespace Sys2Proof

/-- Why a beat is no transaction. -/
inductive DecodeReject where
  /-- A packed command word of more than LEN_W + 3 bits (R61). -/
  | commandWordTooWide
  /-- A unit of more than CHAR_W bits (R64). -/
  | unitTooWide
  /-- An IN beat in IDLE or FIN, where none is taken (R64 "No IN beat is taken in IDLE or FIN"). -/
  | noUnitAccepted
  deriving DecidableEq, Repr

/-- The opcode map of R62, total on the 3-bit field. No mode bit changes it (R68). -/
def decodeCommand (op : BitVec 3) (n : Nat) : Instr :=
  match op.toNat with
  | 0 => .reserved000 n
  | 1 => .lenEnc n
  | 2 => .lenDec n
  | 3 => .enc n
  | 4 => .dec n
  | 5 => .reserved101 n
  | 6 => .reserved110 n
  | _ => .reserved111 n

/-- The reading of an IN beat by `st` and `dir` (R64). -/
def decodeUnit (st : Ctl) (dir : Dir) (u : Nat) : Option Instr :=
  match st, dir with
  | .run, .enc => some (.inEnc u)
  | .run, .dec => some (.inDec u)
  | .drain, _ => some (.inDrain u)
  | .idle, _ => none
  | .fin, _ => none

/-- The decoder: a beat, in the control state and direction it meets. CW[LEN_W+2:LEN_W] is the opcode and
CW[LEN_W-1:0] the length (R61). -/
def decode (p : Config.Params) (st : Ctl) (dir : Dir) : Beat → Except DecodeReject Instr
  | .cmd cw =>
    if cw < 2 ^ (p.lenW + 3) then .ok (decodeCommand (BitVec.ofNat 3 (cw / 2 ^ p.lenW)) (cw % 2 ^ p.lenW))
    else .error .commandWordTooWide
  | .unit u =>
    if u < 2 ^ p.charW then
      match decodeUnit st dir u with
      | some i => .ok i
      | none => .error .noUnitAccepted
    else .error .unitTooWide

/-- The packed command word CW = {op, len} of R61. -/
def commandWord (p : Config.Params) (op n : Nat) : Nat := op * 2 ^ p.lenW + n

/-- The beat that carries a transaction, from the opcode map of R62 and the formats of R61 and R64. -/
def encode (p : Config.Params) : Instr → Beat
  | .lenEnc n => .cmd (commandWord p 1 n)
  | .lenDec n => .cmd (commandWord p 2 n)
  | .enc n => .cmd (commandWord p 3 n)
  | .dec n => .cmd (commandWord p 4 n)
  | .reserved000 n => .cmd (commandWord p 0 n)
  | .reserved101 n => .cmd (commandWord p 5 n)
  | .reserved110 n => .cmd (commandWord p 6 n)
  | .reserved111 n => .cmd (commandWord p 7 n)
  | .inEnc u => .unit u
  | .inDec u => .unit u
  | .inDrain u => .unit u

/-- The control states and directions in which a beat is read as `i` (R64, R68): a command's reading depends on neither. -/
def Instr.readIn : Instr → Ctl → Dir → Bool
  | .inEnc _, st, dir => decide (st = .run) && decide (dir = .enc)
  | .inDec _, st, dir => decide (st = .run) && decide (dir = .dec)
  | .inDrain _, st, _ => decide (st = .drain)
  | .lenEnc _, _, _ => true
  | .lenDec _, _, _ => true
  | .enc _, _, _ => true
  | .dec _, _, _ => true
  | .reserved000 _, _, _ => true
  | .reserved101 _, _, _ => true
  | .reserved110 _, _, _ => true
  | .reserved111 _, _, _ => true

/-- How many bits an IN row of spec/opcode_table.json has at most: its words are numbered for CHAR_W = 16. -/
def tableUnitBits : Nat := 16

/-- The beat that `nbits` and `w` stand for in spec/opcode_table.json's numbering (LEN_W = 16, CHAR_W = 16): a word of
at most 16 bits is an IN beat, a longer one the packed command word (R61). -/
def tableBeat (nbits w : Nat) : Beat :=
  if nbits ≤ tableUnitBits then .unit (w % 2 ^ nbits) else .cmd (w % 2 ^ nbits)

/-- The transaction the decoder reads from a table row's word. The three IN rows share every bit, and the state selects
among them (R64); a table word alone gives no state, and is read as in RUN with dir = ENC (DESIGN CHOICE, log 9). -/
def decodeTableWord (nbits w : Nat) : Option Instr :=
  match decode Config.example16 .run .enc (tableBeat nbits w) with
  | .ok i => some i
  | .error _ => none

end Sys2Proof
end

