-- ==== Sys2Proof/Machine/State.lean ====
section
/-! DEFINITION. The registers of B64URL_CORE (10_state.md R20, R21), the host's drive, and the reasons a step can stop. -/

namespace Sys2Proof.Machine

/-- The carry-over FIFO, four 8-bit entries (R26, R39). -/
structure Carry where
  c0 : Byte
  c1 : Byte
  c2 : Byte
  c3 : Byte
  deriving DecidableEq, Repr

/-- The state of the machine: the registers of R21, then the model's own fields (`cfg`, `inputs`, `cycle`). -/
structure State where
  /-- The implementation parameters LEN_W and CHAR_W (R8, R9; log 1). No rule writes them. -/
  cfg : Config.Params
  /-- Control state (R22). -/
  st : Ctl
  /-- Direction of the running or last operation (R23). -/
  dir : Dir
  /-- Units still to accept, LEN_W bits (R24). -/
  rem : Nat
  /-- Units in the carry-over FIFO, 2 bits (R25). -/
  fill : Fin 4
  /-- Carry-over FIFO (R26). -/
  carry : Carry
  /-- Status of the running operation (R27). -/
  stat : Status
  /-- Output units the running operation has emitted, LEN_W + 1 bits (R28). -/
  produced : Nat
  /-- The output register holds a block not yet taken (R29). -/
  outValid : Bool
  /-- Up to four output units, lane i in bits 8i+7 to 8i (R29, R44). -/
  outData : BitVec 32
  /-- Number of valid lanes (R29). -/
  outCnt : BitVec 3
  /-- One-cycle response pulse (R30, R147). -/
  rspValid : Bool
  /-- Status of the last response (R30, R31). -/
  rspStatus : Status
  /-- Length of the last response, LEN_W + 1 bits (R30, R66). -/
  rspLen : Nat
  /-- The host's drive of the input ports, one entry a clock cycle, the coming cycle first (R34, R148; log 2). -/
  inputs : List Config.Inputs
  /-- Counts cycles, only to draw a fresh free drive when `inputs` is empty (log 3). -/
  cycle : Nat
  deriving DecidableEq, Repr

/-- Why the machine stops. -/
inductive Fault where
  /-- A decode tail of one character: IN_DEC takes a valid character with `fill` = 0 and `rem` = 1 (R128, R178, U6).
  Raised by `execInDec` alone. Safe: no run from reset reaches it (R36 I6), and the rule forbids giving it an output. -/
  | unreachableTail1
  deriving DecidableEq, Repr

/-- Why a transaction has no meaning in the model. -/
inductive Refusal where
  /-- The arm of `exec` has no meaning yet. Raised by `exec` alone; safe. No arm raises it now. -/
  | notModelled (mnemonic : String)
  deriving DecidableEq, Repr

/-- The registers after the reset of R200, in a block with the parameters `p`, with the host's drive as given. -/
def State.resetWith (p : Config.Params) (inputs : List Config.Inputs) (cycle : Nat) : State :=
  { cfg := p, st := .idle, dir := .enc, rem := 0, fill := 0, carry := { c0 := 0, c1 := 0, c2 := 0, c3 := 0 },
    stat := .ok, produced := 0, outValid := false, outData := 0, outCnt := 0, rspValid := false, rspStatus := .ok,
    rspLen := 0, inputs := inputs, cycle := cycle }

/-- The machine right after reset (R200), at the spec's example parameters (log 1), the host driving nothing listed (log 9). -/
def State.reset : State := State.resetWith Config.example16 [] 0

end Sys2Proof.Machine
end

