-- ==== Sys2Proof/Machine/Alphabet.lean ====
section
/-! DEFINITION. The two constant tables of 40_alphabet.md. Numeric character codes are ASCII, which the spec supplies
from general knowledge (log 12). -/

namespace Sys2Proof.Machine

/-- EncMap, the closed formula of R81: position in the alphabet to character code. -/
def encMap (v : Code) : Byte :=
  if v ≤ 25 then 0x41 + v.setWidth 8
  else if v ≤ 51 then 0x61 + (v.setWidth 8 - 26)
  else if v ≤ 61 then 0x30 + (v.setWidth 8 - 52)
  else if v = 62 then 0x2D
  else 0x5F

/-- DecLUT (R83), by the valid entries that R84 lists; `none` is INVALID (R85). -/
def decLut (c : Byte) : Option Code :=
  if 0x41 ≤ c ∧ c ≤ 0x5A then some ((c - 0x41).setWidth 6)
  else if 0x61 ≤ c ∧ c ≤ 0x7A then some ((c - 0x61).setWidth 6 + 26)
  else if 0x30 ≤ c ∧ c ≤ 0x39 then some ((c - 0x30).setWidth 6 + 52)
  else if c = 0x2D then some 62
  else if c = 0x5F then some 63
  else none

/-- Classify (R120): a code of 256 or more is INVALID, any other is looked up. -/
def classify (u : Nat) : Option Code :=
  if u / 256 ≠ 0 then none else decLut (BitVec.ofNat 8 u)

end Sys2Proof.Machine
end

