-- ==== Sys2Proof/Machine/Block.lean ====
section
/-! DEFINITION. The bit pack and unpack datapath: 42_encode.md R100 to R102, 43_decode.md R121 to R123, and the lane
order of an output beat, 20_memory.md R44. Bits are most significant first within a block (R41, R42). -/

namespace Sys2Proof.Machine

/-- Pack3 (R100). -/
def pack3 (b0 b1 b2 : Byte) : List Code :=
  let w : Group := b0 ++ b1 ++ b2
  [w.extractLsb' 18 6, w.extractLsb' 12 6, w.extractLsb' 6 6, w.extractLsb' 0 6]

/-- Tail1 (R101). -/
def tail1 (b0 : Byte) : List Code :=
  [b0.extractLsb' 2 6, b0.extractLsb' 0 2 ++ 0#4]

/-- Tail2 (R102). -/
def tail2 (b0 b1 : Byte) : List Code :=
  [b0.extractLsb' 2 6, b0.extractLsb' 0 2 ++ b1.extractLsb' 4 4, b1.extractLsb' 0 4 ++ 0#2]

/-- Unpack4 (R121). -/
def unpack4 (v0 v1 v2 v3 : Code) : List Byte :=
  let w : Group := v0 ++ v1 ++ v2 ++ v3
  [w.extractLsb' 16 8, w.extractLsb' 8 8, w.extractLsb' 0 8]

/-- DTail2 (R122). -/
def dTail2 (v0 v1 : Code) : List Byte :=
  let w : Group := v0 ++ v1 ++ 0#6 ++ 0#6
  [w.extractLsb' 16 8]

/-- DTail3 (R123). -/
def dTail3 (v0 v1 v2 : Code) : List Byte :=
  let w : Group := v0 ++ v1 ++ v2 ++ 0#6
  [w.extractLsb' 16 8, w.extractLsb' 8 8]

/-- The `out_data` of a beat (R143): the sum of `U[i] << (8*i)`. -/
def packLanes : List Byte → BitVec 32
  | [] => 0
  | u :: us => u.setWidth 32 ||| packLanes us <<< 8

/-- Lane `i` of `out_data` (R44). -/
def lane (d : BitVec 32) (i : Nat) : Byte := d.extractLsb' (8 * i) 8

end Sys2Proof.Machine
end

