-- ==== Sys2Proof/Machine/Length.lean ====
section
/-! DEFINITION. The length calculators of 41_length.md. -/

namespace Sys2Proof.Machine

/-- CharsForEncode (R90), exact. -/
def charsForEncode (n : Nat) : Nat := (4 * n + 2) / 3

/-- LenValidDec (R92): the length class a decode may have. -/
def lenValidDec (n : Nat) : Bool := decide (n % 4 ≠ 1)

/-- BytesForDecode (R91), exact; `none` is INVALID_LENGTH. -/
def bytesForDecode (n : Nat) : Option Nat := if lenValidDec n then some (3 * n / 4) else none

end Sys2Proof.Machine
end

