-- ==== Sys2Proof/Machine/Operands.lean ====
section
/-! DEFINITION. The operand forms (30_encoding.md R63, R64; 20_memory.md R45) and the carry-over FIFO's entries (R26). -/

namespace Sys2Proof.Machine

/-- The unit of an encode stream: `in_data[7:0]`, the upper bits ignored (R45, R105, U12). -/
def unitByte (u : Nat) : Byte := BitVec.ofNat 8 u

/-- Entry `i` of the FIFO. -/
def Carry.get (c : Carry) (i : Fin 4) : Byte :=
  match i with
  | 0 => c.c0
  | 1 => c.c1
  | 2 => c.c2
  | 3 => c.c3

/-- The FIFO with entry `i` written. -/
def Carry.put (c : Carry) (i : Fin 4) (b : Byte) : Carry :=
  match i with
  | 0 => { c with c0 := b }
  | 1 => { c with c1 := b }
  | 2 => { c with c2 := b }
  | 3 => { c with c3 := b }

/-- The code an entry holds in a decode operation, `carry[i][5:0]` (R127). -/
def Carry.code (c : Carry) (i : Fin 4) : Code := (c.get i).setWidth 6

/-- BLK(dir), the block size in input units (R23). -/
def blockSize : Dir → Nat
  | .enc => 3
  | .dec => 4

end Sys2Proof.Machine
end

