-- ==== Sys2Proof/Machine/Flags.lean ====
section
/-! DEFINITION. The status codes (10_state.md R31) and the one status computation a command makes. The block has no
other flags (R35). -/

namespace Sys2Proof.Machine

/-- The 2-bit encoding of a status (R31). -/
def statusCode : Status → BitVec 2
  | .ok => 0
  | .invalidLength => 1
  | .invalidCharacter => 2
  | .badCommand => 3

/-- The 2-bit encoding of `st` (R22). -/
def ctlCode : Ctl → BitVec 2
  | .idle => 0
  | .run => 1
  | .drain => 2
  | .fin => 3

/-- The 1-bit encoding of `dir` (R23). -/
def dirCode : Dir → BitVec 1
  | .enc => 0
  | .dec => 1

/-- `rsp_len` of a FIN response: the running count on OK, 0 on any error (R66, R146). -/
def responseLength (stat : Status) (produced : Nat) : Nat :=
  match stat with
  | .ok => produced
  | .invalidLength => 0
  | .invalidCharacter => 0
  | .badCommand => 0

end Sys2Proof.Machine
end

