-- ==== Sys2Proof/Machine/Ops.lean ====
section
/-! DEFINITION. The shared operations over the registers: narrowing writes (R12), the ready signals (R140, R141), the
output register (R143, R144), responses (R30, R147), raising an error (R14, R170 to R175) and the FIN step that ends an
operation (R146, R176). -/

namespace Sys2Proof.Machine

/-- A value written into a register of `bits` bits (R12). -/
def narrow (bits v : Nat) : Nat := v % 2 ^ bits

/-- `cmd_ready` (R140). -/
def State.cmdReady (s : State) : Bool := decide (s.st = .idle)

/-- `emit_next` (R141): the next unit would complete a block or end the stream. -/
def State.emitNext (s : State) : Bool := decide (s.fill.val = blockSize s.dir - 1) || decide (s.rem = 1)

/-- `in_ready` (R141). -/
def State.inReady (s : State) : Bool :=
  match s.st with
  | .drain => true
  | .run => !(s.outValid && s.emitNext)
  | .idle => false
  | .fin => false

/-- `carry[i] <- b` (R142). -/
def State.writeCarry (s : State) (i : Fin 4) (b : Byte) : State := { s with carry := s.carry.put i b }

/-- `fill <- k` (R142). -/
def State.setFill (s : State) (k : Fin 4) : State := { s with fill := k }

/-- `rem <- s.rem - 1`, in the LEN_W bits of `rem` (R24, R12). -/
def State.countUnit (s : State) : State :=
  { s with rem := narrow s.cfg.lenW (s.rem + 2 ^ s.cfg.lenW - 1) }

/-- `if s.rem = 1 then st <- FIN`: `last` says that the unit taken was the last (R105, R127, R145). -/
def State.endIfLast (s : State) (last : Bool) : State := if last then { s with st := .fin } else s

/-- Emit(U) (R143). -/
def State.emit (s : State) (us : List Byte) : State :=
  { s with outValid := true, outCnt := BitVec.ofNat 3 us.length, outData := packLanes us,
           produced := narrow (s.cfg.lenW + 1) (s.produced + us.length) }

/-- A response: the pulse, the status and the length (R30, R147). -/
def State.respond (s : State) (status : Status) (len : Nat) : State :=
  { s with rspValid := true, rspStatus := status, rspLen := narrow (s.cfg.lenW + 1) len }

/-- An operation enters RUN (R104, R126). The FIFO's entries are not cleared. -/
def State.start (s : State) (dir : Dir) (n : Nat) : State :=
  { s with st := .run, dir := dir, rem := narrow s.cfg.lenW n, fill := 0, stat := .ok, produced := 0 }

/-- `raise E` (R14): INVALID_LENGTH and BAD_COMMAND answer at once with length 0 and leave everything else (R170, R173,
R175). INVALID_CHARACTER is kept in `stat`, the partial block is dropped, and the rest of the stream is drained; with
the last unit there is no rest (R127, R171, R175). OK is no error. -/
def State.raiseError (s : State) (e : Status) : State :=
  match e with
  | .ok => s
  | .invalidLength => s.respond .invalidLength 0
  | .badCommand => s.respond .badCommand 0
  | .invalidCharacter =>
    { s with stat := .invalidCharacter, fill := 0, st := if s.rem = 1 then .fin else .drain }

/-- The response of an ended operation and the return to IDLE (R146, R176). -/
def State.finish (s : State) : State :=
  { s.respond s.stat (responseLength s.stat s.produced) with st := .idle }

/-- The FIN step's condition (R146): in FIN with the output register empty. -/
def State.finFires (s : State) : Bool := decide (s.st = .fin) && !s.outValid

/-- What a clock edge does in a cycle in which no beat is taken on an input port: the FIN step where it is due (R146). -/
def State.finStep (s : State) : State := if s.finFires then s.finish else s

/-- The output handshake (R144): a taken beat empties the register; data and count keep their values. -/
def State.handOver (s : State) (taken : Bool) : State := if taken then { s with outValid := false } else s

/-- The bytes of the beat in the output register, lane 0 first (R43, R44). -/
def State.outUnits (s : State) : List Byte := (List.range s.outCnt.toNat).map (lane s.outData)

/-- The output ports, functions of the registers alone (R34). -/
structure Outputs where
  cmdReady : Bool
  inReady : Bool
  outValid : Bool
  outData : BitVec 32
  outCnt : BitVec 3
  rspValid : Bool
  rspStatus : BitVec 2
  rspLen : Nat
  deriving DecidableEq, Repr

/-- The output ports in the current cycle (R34). -/
def State.outputs (s : State) : Outputs :=
  { cmdReady := s.cmdReady, inReady := s.inReady, outValid := s.outValid, outData := s.outData, outCnt := s.outCnt,
    rspValid := s.rspValid, rspStatus := statusCode s.rspStatus, rspLen := s.rspLen }

end Sys2Proof.Machine
end

