-- ==== Sys2Proof/Machine/Commands.lean ====
section
/-! DEFINITION. The command beats: LEN_ENC and LEN_DEC (41_length.md R95, R96), ENC (42_encode.md R104), DEC
(43_decode.md R126) and the four reserved opcodes (60_exceptions.md R173). A command is taken in IDLE alone; offered in
another state it waits, and the block does not change (R140, U11; log 5). -/

namespace Sys2Proof.Machine

/-- A command's effect where it is taken (R140). -/
def onCommand (s : State) (effect : State) : Host.Outcome State Fault Refusal :=
  if s.cmdReady then .next effect else .next s

/-- LEN_ENC (R95). -/
def execLenEnc (n : Nat) (s : State) : Host.Outcome State Fault Refusal :=
  onCommand s (s.respond .ok (charsForEncode n))

/-- LEN_DEC (R96). -/
def execLenDec (n : Nat) (s : State) : Host.Outcome State Fault Refusal :=
  onCommand s (match bytesForDecode n with
    | some len => s.respond .ok len
    | none => s.raiseError .invalidLength)

/-- ENC (R104). -/
def execEnc (n : Nat) (s : State) : Host.Outcome State Fault Refusal :=
  onCommand s (if n = 0 then s.respond .ok 0 else s.start .enc n)

/-- DEC (R126). -/
def execDec (n : Nat) (s : State) : Host.Outcome State Fault Refusal :=
  onCommand s (if !lenValidDec n then s.raiseError .invalidLength
    else if n = 0 then s.respond .ok 0
    else s.start .dec n)

/-- A reserved opcode (R173); the length operand is ignored. -/
def badCommand (s : State) : Host.Outcome State Fault Refusal := onCommand s (s.raiseError .badCommand)

/-- cmd_op 0b000 (R173). -/
def execReserved000 (_n : Nat) (s : State) : Host.Outcome State Fault Refusal := badCommand s

/-- cmd_op 0b101 (R173). -/
def execReserved101 (_n : Nat) (s : State) : Host.Outcome State Fault Refusal := badCommand s

/-- cmd_op 0b110 (R173). -/
def execReserved110 (_n : Nat) (s : State) : Host.Outcome State Fault Refusal := badCommand s

/-- cmd_op 0b111 (R173). -/
def execReserved111 (_n : Nat) (s : State) : Host.Outcome State Fault Refusal := badCommand s

end Sys2Proof.Machine
end

