-- ==== Sys2Proof/Machine/Units.lean ====
section
/-! DEFINITION. The input beats: IN_ENC (42_encode.md R105), IN_DEC (43_decode.md R127) and IN_DRAIN (44_stream.md
R145). A beat is taken where `in_ready` is 1 and `st` and `dir` select its form (R64, R141); otherwise it waits, and the
block does not change (U9; log 5). -/

namespace Sys2Proof.Machine

/-- IN_ENC on an accepted byte (R105), with `k` = `fill`. -/
def acceptByte (b : Byte) (s : State) : State :=
  let k := s.fill
  let t := (s.writeCarry k b).countUnit
  if k = 2 then
    ((t.emit ((pack3 (s.carry.get 0) (s.carry.get 1) b).map encMap)).setFill 0).endIfLast (s.rem = 1)
  else if s.rem = 1 then
    if k = 0 then ((t.emit ((tail1 b).map encMap)).setFill 0).endIfLast true
    else ((t.emit ((tail2 (s.carry.get 0) b).map encMap)).setFill 0).endIfLast true
  else t.setFill (k + 1)

/-- IN_DEC on an accepted valid character of code `r` (R127), with `k` = `fill`. A one-character tail faults (R128). -/
def acceptCode (r : Code) (s : State) : Host.Outcome State Fault Refusal :=
  let k := s.fill
  let t := (s.writeCarry k (r.setWidth 8)).countUnit
  if k = 3 then
    .next (((t.emit (unpack4 (s.carry.code 0) (s.carry.code 1) (s.carry.code 2) r)).setFill 0).endIfLast (s.rem = 1))
  else if s.rem = 1 then
    if k = 2 then .next (((t.emit (dTail3 (s.carry.code 0) (s.carry.code 1) r)).setFill 0).endIfLast true)
    else if k = 1 then .next (((t.emit (dTail2 (s.carry.code 0) r)).setFill 0).endIfLast true)
    else .fault .unreachableTail1
  else .next (t.setFill (k + 1))

/-- IN_ENC (R105). -/
def execInEnc (u : Nat) (s : State) : Host.Outcome State Fault Refusal :=
  if s.st = .run ∧ s.dir = .enc ∧ s.inReady then .next (acceptByte (unitByte u) s) else .next s

/-- IN_DEC (R127). -/
def execInDec (u : Nat) (s : State) : Host.Outcome State Fault Refusal :=
  if s.st = .run ∧ s.dir = .dec ∧ s.inReady then
    match classify u with
    | some r => acceptCode r s
    | none => .next (s.raiseError .invalidCharacter).countUnit
  else .next s

/-- IN_DRAIN (R145); the unit is not looked at. -/
def execInDrain (_u : Nat) (s : State) : Host.Outcome State Fault Refusal :=
  if s.st = .drain ∧ s.inReady then .next (s.countUnit.endIfLast (s.rem = 1)) else .next s

end Sys2Proof.Machine
end

