-- ==== Sys2Proof/Machine/Dispatch.lean ====
section
/-! DEFINITION. One arm per transaction: its effect at the clock edge that takes it (R148). -/

namespace Sys2Proof.Machine

def exec (i : Instr) (s : State) : Host.Outcome State Fault Refusal :=
  match i with
  | .lenEnc n => Sys2Proof.Machine.execLenEnc n s
  | .lenDec n => Sys2Proof.Machine.execLenDec n s
  | .enc n => Sys2Proof.Machine.execEnc n s
  | .dec n => Sys2Proof.Machine.execDec n s
  | .reserved000 n => Sys2Proof.Machine.execReserved000 n s
  | .reserved101 n => Sys2Proof.Machine.execReserved101 n s
  | .reserved110 n => Sys2Proof.Machine.execReserved110 n s
  | .reserved111 n => Sys2Proof.Machine.execReserved111 n s
  | .inEnc u => Sys2Proof.Machine.execInEnc u s
  | .inDec u => Sys2Proof.Machine.execInDec u s
  | .inDrain u => Sys2Proof.Machine.execInDrain u s

end Sys2Proof.Machine
end

