-- ==== Sys2Proof/Machine/Cycle.lean ====
section
/-! DEFINITION. One clock cycle: sampling the ports, which beats fire, and the edge (44_stream.md R148,
70_reset_and_hazards.md R200); and how a table word is placed before the ports (log 9). -/

namespace Sys2Proof.Machine

/-- The input ports at the coming edge (R34): the listed drive, or the free one (log 3), cut to the ports' widths. -/
def State.sampled (s : State) : Config.Inputs :=
  let i := s.inputs.headD (Config.undrivenInputs s.cycle)
  { i with cmdLen := narrow s.cfg.lenW i.cmdLen, inData := narrow s.cfg.charW i.inData }

/-- `rst_n` = 0 at the coming edge (R200). -/
def State.resetDriven (s : State) : Bool := !s.sampled.rstN

/-- `cmd_fire` (R148). -/
def State.cmdFires (s : State) : Bool := s.sampled.cmdValid && s.cmdReady

/-- `in_fire` (R148). -/
def State.inFires (s : State) : Bool := s.sampled.inValid && s.inReady

/-- `out_fire` (R148). -/
def State.outFires (s : State) : Bool := s.outValid && s.sampled.outReady

/-- The beat taken at the coming edge, if `rst_n` is 1, decoded (R62, R64). A command is taken in IDLE and a unit in RUN
or DRAIN, so there is at most one (R148). -/
def State.takenInstr (s : State) : Option Instr :=
  if s.cmdFires then some (decodeCommand s.sampled.cmdOp s.sampled.cmdLen)
  else if s.inFires then decodeUnit s.st s.dir s.sampled.inData
  else none

/-- The host's drive moves on by one cycle. -/
def State.nextCycle (s : State) : State := { s with inputs := s.inputs.tail, cycle := s.cycle + 1 }

/-- What every edge with `rst_n` = 1 does first: the response pulse ends (R147). -/
def State.beginEdge (s : State) : State := { s.nextCycle with rspValid := false }

/-- An edge with `rst_n` = 0 (R200): every register takes its reset value, and nothing is taken. -/
def State.resetEdge (s : State) : State := State.resetWith s.cfg s.inputs.tail (s.cycle + 1)

/-- The end of an edge: the output handshake is applied to what the rest of the edge made (R144). By R148 it never meets
a write of `out_valid` (log 6). -/
def afterEdge (taken : Bool) : Host.Outcome State Fault Refusal → Host.Outcome State Fault Refusal
  | .next t => .next (t.handOver taken)
  | .fault r => .fault r
  | .refused r => .refused r

/-- Step(s, i) of R148, `i` being the sampled ports. -/
def clockEdge (s : State) : Host.Outcome State Fault Refusal :=
  if s.resetDriven then .next s.resetEdge
  else
    afterEdge s.outFires (match s.takenInstr with
      | some i => exec i s.beginEdge
      | none => .next s.beginEdge.finStep)

/-- The drive that offers a beat in one cycle, with `rst_n` = 1 and `out_ready` = 0. -/
def drivenBy : Beat → Config.Inputs
  | .cmd cw =>
    { Config.Inputs.quiet false with cmdValid := true, cmdOp := BitVec.ofNat 3 (cw / 2 ^ 16), cmdLen := cw % 2 ^ 16 }
  | .unit u => { Config.Inputs.quiet false with inValid := true, inData := u }

/-- `s` ready to take the beat in the coming cycle: IDLE for a command (R140); for a unit an encode operation in RUN with
a unit to come and, where that unit will emit, an empty output register (R141). Nothing else changes. -/
def State.readyFor (s : State) : Beat → State
  | .cmd _ => { s with st := .idle }
  | .unit _ =>
    let t := { s with st := .run, dir := .enc, rem := max s.rem 1 }
    { t with outValid := s.outValid && !t.emitNext }

/-- The beat placed before the ports for the coming cycle, in place of what the host would have driven. -/
def State.placeBeat (s : State) (b : Beat) : State :=
  { s.readyFor b with inputs := drivenBy b :: s.inputs.tail }

end Sys2Proof.Machine
end

