-- ==== Sys2Proof/Machine/Step.lean ====
section
/-! DEFINITION. The machine's step, one clock cycle (R148), and the placing of a table word before its ports. -/

namespace Sys2Proof.Machine

/-- One rising edge of `clk` (R13, R148). -/
def step (s : State) : Host.Outcome State Fault Refusal := clockEdge s

/-- `s` with a table row's word offered in the coming cycle, where the block takes it (log 9). -/
def State.withFetchWord (s : State) (nbits w : Nat) : State := s.placeBeat (tableBeat nbits w)

end Sys2Proof.Machine
end

