-- ==== Sys2Proof/Machine/Reference.lean ====
section
/-! DEFINITION. The whole-input functions that the spec's laws speak of: Encode (R103), Decode (R125) and the reference
stitcher (R149). The step does not call them. -/

namespace Sys2Proof.Machine

/-- The codes of Encode(B) (R103): Pack3 on each full block, then the tail. -/
def encodeCodes : List Byte → List Code
  | b0 :: b1 :: b2 :: rest => pack3 b0 b1 b2 ++ encodeCodes rest
  | [b0, b1] => tail2 b0 b1
  | [b0] => tail1 b0
  | [] => []

/-- Encode(B) (R103), as character codes. -/
def encodeBytes (bs : List Byte) : List Byte := (encodeCodes bs).map encMap

/-- Classify on every character of a text (R125); `none` where one is INVALID. -/
def classifyAll : List Nat → Option (List Code)
  | [] => some []
  | u :: us =>
    match classify u, classifyAll us with
    | some v, some vs => some (v :: vs)
    | _, _ => none

/-- The bytes of a text's codes (R125): Unpack4 on each full block, then the tail. A tail of one code has no bytes; R125
excludes it by the length class before this function is asked. -/
def decodeCodes : List Code → List Byte
  | v0 :: v1 :: v2 :: v3 :: rest => unpack4 v0 v1 v2 v3 ++ decodeCodes rest
  | [v0, v1, v2] => dTail3 v0 v1 v2
  | [v0, v1] => dTail2 v0 v1
  | [_] => []
  | [] => []

/-- The result of Decode(T). -/
inductive Decoded where
  | bytes (bs : List Byte)
  | error (e : Status)
  deriving DecidableEq, Repr

/-- Decode(T) (R125): the length class first (R134), then the characters, then the bytes. -/
def decodeText (us : List Nat) : Decoded :=
  if us.length % 4 = 1 then .error .invalidLength
  else match classifyAll us with
    | none => .error .invalidCharacter
    | some vs => .bytes (decodeCodes vs)

/-- Step 2b of R149 on what a chunk has left: its whole blocks go through `full`, the leftover becomes the buffer. -/
def stitchWhole {α β : Type} (blk : Nat) (full : List α → List β) (out : List β) (c : List α) : List α × List β :=
  let whole := c.length / blk
  (c.drop (blk * whole), out ++ (List.range whole).flatMap (fun j => full ((c.drop (blk * j)).take blk)))

/-- Step 2 of R149 on one chunk, with the buffer and the output so far. -/
def stitchChunk {α β : Type} (blk : Nat) (full : List α → List β) (acc : List α × List β) (c : List α) :
    List α × List β :=
  let need := blk - acc.1.length
  if acc.1.isEmpty then stitchWhole blk full acc.2 c
  else if need ≤ c.length then stitchWhole blk full (acc.2 ++ full (acc.1 ++ c.take need)) (c.drop need)
  else (acc.1 ++ c, acc.2)

/-- Stitch(BLK, Full, Tail, chunks) (R149). -/
def stitch {α β : Type} (blk : Nat) (full tail : List α → List β) (chunks : List (List α)) : List β :=
  let acc := chunks.foldl (stitchChunk blk full) ([], [])
  if acc.1.isEmpty then acc.2 else acc.2 ++ tail acc.1

/-- Full for encode (R149): map EncMap ∘ Pack3. -/
def encodeFull : List Byte → List Byte
  | [b0, b1, b2] => (pack3 b0 b1 b2).map encMap
  | _ => []

/-- Tail for encode (R149), by length. -/
def encodeTail : List Byte → List Byte
  | [b0] => (tail1 b0).map encMap
  | [b0, b1] => (tail2 b0 b1).map encMap
  | _ => []

/-- Full for decode (R149), on classified characters. -/
def decodeFull : List Code → List Byte
  | [v0, v1, v2, v3] => unpack4 v0 v1 v2 v3
  | _ => []

/-- Tail for decode (R149), by length, on classified characters. -/
def decodeTail : List Code → List Byte
  | [v0, v1] => dTail2 v0 v1
  | [v0, v1, v2] => dTail3 v0 v1 v2
  | _ => []

/-- Stitch for encode (R149). -/
def stitchEncode (chunks : List (List Byte)) : List Byte := stitch 3 encodeFull encodeTail chunks

/-- Classify on every character of every chunk (R149). -/
def classifyChunks : List (List Nat) → Option (List (List Code))
  | [] => some []
  | c :: cs =>
    match classifyAll c, classifyChunks cs with
    | some v, some vs => some (v :: vs)
    | _, _ => none

/-- Stitch for decode (R149): the length first, INVALID_CHARACTER if any character classifies INVALID. -/
def stitchDecode (chunks : List (List Nat)) : Decoded :=
  if (chunks.map List.length).sum % 4 = 1 then .error .invalidLength
  else match classifyChunks chunks with
    | none => .error .invalidCharacter
    | some cs => .bytes (stitch 4 decodeFull decodeTail cs)

/-- A row of the table of R84 in which every entry is INVALID. -/
def invalidRow : List (Option Code) := List.replicate 16 none

/-- The 256-entry table of R84, row by row, written from the spec's own table. -/
def decLutTable : List (Option Code) :=
  invalidRow ++
  invalidRow ++
  [none, none, none, none, none, none, none, none, none, none, none, none, none, some 62, none, none] ++
  [some 52, some 53, some 54, some 55, some 56, some 57, some 58, some 59, some 60, some 61, none, none, none, none, none, none] ++
  [none, some 0, some 1, some 2, some 3, some 4, some 5, some 6, some 7, some 8, some 9, some 10, some 11, some 12, some 13, some 14] ++
  [some 15, some 16, some 17, some 18, some 19, some 20, some 21, some 22, some 23, some 24, some 25, none, none, none, none, some 63] ++
  [none, some 26, some 27, some 28, some 29, some 30, some 31, some 32, some 33, some 34, some 35, some 36, some 37, some 38, some 39, some 40] ++
  [some 41, some 42, some 43, some 44, some 45, some 46, some 47, some 48, some 49, some 50, some 51, none, none, none, none, none] ++
  invalidRow ++
  invalidRow ++
  invalidRow ++
  invalidRow ++
  invalidRow ++
  invalidRow ++
  invalidRow ++
  invalidRow

/-- The 64 character codes of R82 in the order of the alphabet (R80), written from the spec's own table. -/
def alphabetTable : List Byte :=
  [0x41, 0x42, 0x43, 0x44, 0x45, 0x46, 0x47, 0x48, 0x49, 0x4A, 0x4B, 0x4C, 0x4D, 0x4E, 0x4F, 0x50] ++
  [0x51, 0x52, 0x53, 0x54, 0x55, 0x56, 0x57, 0x58, 0x59, 0x5A, 0x61, 0x62, 0x63, 0x64, 0x65, 0x66] ++
  [0x67, 0x68, 0x69, 0x6A, 0x6B, 0x6C, 0x6D, 0x6E, 0x6F, 0x70, 0x71, 0x72, 0x73, 0x74, 0x75, 0x76] ++
  [0x77, 0x78, 0x79, 0x7A, 0x30, 0x31, 0x32, 0x33, 0x34, 0x35, 0x36, 0x37, 0x38, 0x39, 0x2D, 0x5F]

end Sys2Proof.Machine
end

