-- ==== Sys2Proof/Machine/Trace.lean ====
section
/-! DEFINITION. What crosses the ports in a run: the units taken and the output beats taken, in order (R43). The laws of
whole operations are stated over it (R108, R129, R155); the step does not call it. -/

namespace Sys2Proof.Machine

/-- The unit taken at the coming edge (R141, R148, R200). -/
def State.unitTaken (s : State) : Option Nat :=
  if !s.resetDriven && s.inFires then some s.sampled.inData else none

/-- The output beat taken at the coming edge, lane 0 first (R144, R200). -/
def State.beatTaken (s : State) : Option (List Byte) :=
  if !s.resetDriven && s.outFires then some s.outUnits else none

/-- The units and beats taken so far, oldest first. -/
structure Log where
  units : List Nat
  beats : List (List Byte)
  deriving DecidableEq, Repr

/-- The log after the edge that ends the cycle `s`. -/
def Log.after (l : Log) (s : State) : Log :=
  { units := l.units ++ s.unitTaken.toList, beats := l.beats ++ s.beatTaken.toList }

/-- The log's continuation by one edge that neither is reset nor answers; `none` where it is or does. -/
def quietEdge (t : State) (l : Log) : Option (State × Log) :=
  if t.resetDriven then none
  else match step t with
    | .next u => if u.rspValid then none else some (u, l.after t)
    | .fault _ => none
    | .refused _ => none

/-- `k` cycles from `s`, each with `rst_n` = 1 and none producing a response, with what crossed the ports. -/
def quietRun : Nat → State → Option (State × Log)
  | 0, s => some (s, { units := [], beats := [] })
  | k + 1, s =>
    match quietRun k s with
    | none => none
    | some (t, l) => quietEdge t l

/-- An operation that the cycle `s` starts and that answers: `k` quiet cycles from `s` lead to the cycle `t`, whose edge
gives the response seen in `u`. `l` is what crossed the ports. The response is visible `k + 1` cycles after `s`. -/
def Answers (s : State) (k : Nat) (t u : State) (l : Log) : Prop :=
  quietRun k s = some (t, l) ∧ t.resetDriven = false ∧ step t = .next u ∧ u.rspValid = true

/-- The host's best drive in a cycle (R155): no reset, a unit offered, the consumer ready. -/
def Offers (i : Config.Inputs) : Bool := i.rstN && i.inValid && i.outReady

/-- The next `k` cycles are all listed and the host offers a unit and takes every beat in each of them but the first, in
which it does not reset and takes a beat (R155). -/
def OffersFor (s : State) (k : Nat) : Prop :=
  k ≤ s.inputs.length ∧ ∀ i ∈ (s.inputs.take k).tail, Offers i = true

end Sys2Proof.Machine
end

