-- ==== Sys2Proof/Safety.lean ====
section
/-! DEFINITION. What counts as a good state and a safe step: the invariants of 10_state.md R36, R29, R26 and R37, and
the absence of a fault (R178). -/

namespace Sys2Proof.Machine

/-- R36 I1. -/
abbrev InvRestEmpty (s : State) : Prop := s.st = .idle ∨ s.st = .fin → s.rem = 0 ∧ s.fill = 0

/-- R36 I2. -/
abbrev InvIdleNoBeat (s : State) : Prop := s.st = .idle → s.outValid = false

/-- R36 I3. -/
abbrev InvBusyHasUnits (s : State) : Prop := s.st = .run ∨ s.st = .drain → 1 ≤ s.rem

/-- R36 I4. -/
abbrev InvRunPartial (s : State) : Prop := s.st = .run → s.fill.val ≤ blockSize s.dir - 1 ∧ s.stat = .ok

/-- R36 I5. -/
abbrev InvDrain (s : State) : Prop := s.st = .drain → s.dir = .dec ∧ s.fill = 0 ∧ s.stat = .invalidCharacter

/-- R36 I6. -/
abbrev InvDecodeClass (s : State) : Prop := s.st = .run ∧ s.dir = .dec → (s.fill.val + s.rem) % 4 ≠ 1

/-- R36 I7. -/
abbrev InvBeatCount (s : State) : Prop :=
  s.outValid = true →
    (s.dir = .enc → s.outCnt = 2 ∨ s.outCnt = 3 ∨ s.outCnt = 4) ∧
    (s.dir = .dec → s.outCnt = 1 ∨ s.outCnt = 2 ∨ s.outCnt = 3)

/-- The invariants (I1) to (I7) of R36. -/
abbrev ControlInv (s : State) : Prop :=
  InvRestEmpty s ∧ InvIdleNoBeat s ∧ InvBusyHasUnits s ∧ InvRunPartial s ∧ InvDrain s ∧ InvDecodeClass s ∧ InvBeatCount s

/-- Every register of a parameter width is in its range (R8, R21, R94). -/
abbrev WidthInv (s : State) : Prop :=
  s.rem < 2 ^ s.cfg.lenW ∧ s.produced < 2 ^ (s.cfg.lenW + 1) ∧ s.rspLen < 2 ^ (s.cfg.lenW + 1)

/-- The lanes a waiting beat does not use are 0x00 (R29). -/
abbrev UnusedLanesZero (s : State) : Prop :=
  s.outValid = true → ∀ i : Fin 4, s.outCnt.toNat ≤ i.val → lane s.outData i.val = 0

/-- A waiting encode beat holds characters of the alphabet alone (R107). -/
abbrev BeatInAlphabet (s : State) : Prop :=
  s.outValid = true ∧ s.dir = .enc → ∀ u ∈ s.outUnits, ∃ v : Code, encMap v = u

/-- A live FIFO entry of a decode operation is a zero-extended 6-bit code (R26). -/
abbrev LiveEntriesAreCodes (s : State) : Prop :=
  s.st = .run ∧ s.dir = .dec → ∀ i : Fin 4, i < s.fill → (s.carry.get i).toNat < 64

/-- What the registers hold in a state of `ControlInv` (R26, R29, R94, R107). -/
abbrev DataInv (s : State) : Prop :=
  WidthInv s ∧ UnusedLanesZero s ∧ BeatInAlphabet s ∧ LiveEntriesAreCodes s

/-- A step is safe where it gives a next state: neither a fault nor a refusal (R178). -/
def StepSafe (s : State) : Prop := ∃ t, step s = .next t

/-- The registers with every FIFO entry that holds no part of the current block cleared (R26, R38, U4). Two states with
the same image differ in stale entries alone. -/
def State.forgetStale (s : State) : State :=
  { s with carry := { c0 := if 0 < s.fill.val then s.carry.c0 else 0
                      c1 := if 1 < s.fill.val then s.carry.c1 else 0
                      c2 := if 2 < s.fill.val then s.carry.c2 else 0
                      c3 := 0 } }

/-- The outcome with the stale entries of a next state cleared. -/
def forgetStaleNext : Host.Outcome State Fault Refusal → Host.Outcome State Fault Refusal
  | .next t => .next t.forgetStale
  | .fault r => .fault r
  | .refused r => .refused r

/-- R37 in an encode operation of `n` bytes, `us` being the units accepted so far, in RUN. -/
def EncodeAccounts (n : Nat) (us : List Nat) (s : State) : Prop :=
  us.length + s.rem = n ∧ (us.length - s.fill.val) % 3 = 0 ∧ s.fill.val ≤ us.length ∧
  (∀ i : Fin 4, i < s.fill → us[us.length - s.fill.val + i.val]?.map unitByte = some (s.carry.get i)) ∧
  s.produced = 4 * (us.length - s.fill.val) / 3

/-- R37 in a decode operation of `n` characters, `us` being the units accepted so far, in RUN. -/
def DecodeAccounts (n : Nat) (us : List Nat) (s : State) : Prop :=
  us.length + s.rem = n ∧ (us.length - s.fill.val) % 4 = 0 ∧ s.fill.val ≤ us.length ∧
  (∀ i : Fin 4, i < s.fill →
    us[us.length - s.fill.val + i.val]?.map (fun u => (classify u).map (BitVec.setWidth 8)) =
      some (some (s.carry.get i))) ∧
  s.produced = 3 * (us.length - s.fill.val) / 4

end Sys2Proof.Machine
end

