-- ==== Sys2Proof/Certificates/Slice0/Obligations.lean ====
section
/-! DEFINITION. The statements for the provers. Each quantifies over every state, and so over every LEN_W >= 2 and
CHAR_W >= 8 (R8, R9; log 1), over every drive of the input ports, and over every value of the free drive (log 3). -/

open Sys2Proof Sys2Proof.Machine

/-! ### Reset -/

/-- R200, R201. A rising edge with `rst_n` = 0 gives every register its reset value, whatever the registers and the
other inputs were; nothing is taken in it; and the first cycle after it can take a command. -/
def Obligations.ResetEdgeGivesResetValues : Prop :=
  ∀ s : State, s.resetDriven = true →
    s.unitTaken = none ∧ s.beatTaken = none ∧
    ∃ t, step s = .next t ∧
      t.st = .idle ∧ t.dir = .enc ∧ t.rem = 0 ∧ t.fill = 0 ∧ t.produced = 0 ∧ (∀ i, t.carry.get i = 0) ∧
      t.stat = .ok ∧ t.outValid = false ∧ t.outCnt = 0 ∧ t.outData = 0 ∧
      t.rspValid = false ∧ t.rspStatus = .ok ∧ t.rspLen = 0 ∧ t.cfg = s.cfg ∧ t.inputs = s.inputs.tail ∧
      t.cmdReady = true ∧ t.inReady = false ∧
      (t.resetDriven = false → t.sampled.cmdValid = true →
        t.takenInstr = some (decodeCommand t.sampled.cmdOp t.sampled.cmdLen))

/-- The constant `State.reset` is the state a reset edge leaves in a block of the example parameters (log 1), and every
block's reset state meets the invariants. The host's drive in it is the model's choice (log 9). -/
def Obligations.ResetStateMeetsTheInvariants : Prop :=
  (∀ s : State, s.resetDriven = true → s.cfg = Config.example16 →
    step s = .next { State.reset with inputs := s.inputs.tail, cycle := s.cycle + 1 }) ∧
  ∀ (p : Config.Params) (inputs : List Config.Inputs) (cycle : Nat),
    ControlInv (State.resetWith p inputs cycle) ∧ DataInv (State.resetWith p inputs cycle)

/-! ### Encoding -/

/-- R62. The opcode map, total on the 3-bit field, in every mode. -/
def Obligations.OpcodeMapIsTotal : Prop :=
  ∀ (p : Config.Params) (st : Ctl) (dir : Dir) (n : Nat), n < 2 ^ p.lenW →
    decode p st dir (.cmd (commandWord p 0b000 n)) = .ok (.reserved000 n) ∧
    decode p st dir (.cmd (commandWord p 0b001 n)) = .ok (.lenEnc n) ∧
    decode p st dir (.cmd (commandWord p 0b010 n)) = .ok (.lenDec n) ∧
    decode p st dir (.cmd (commandWord p 0b011 n)) = .ok (.enc n) ∧
    decode p st dir (.cmd (commandWord p 0b100 n)) = .ok (.dec n) ∧
    decode p st dir (.cmd (commandWord p 0b101 n)) = .ok (.reserved101 n) ∧
    decode p st dir (.cmd (commandWord p 0b110 n)) = .ok (.reserved110 n) ∧
    decode p st dir (.cmd (commandWord p 0b111 n)) = .ok (.reserved111 n)

/-- R64. Which of the three readings an IN beat has, `st` and `dir` say, and none is taken in IDLE or FIN. -/
def Obligations.UnitReadingIsSetByStateAndDirection : Prop :=
  ∀ (p : Config.Params) (dir : Dir) (u : Nat), u < 2 ^ p.charW →
    decode p .run .enc (.unit u) = .ok (.inEnc u) ∧
    decode p .run .dec (.unit u) = .ok (.inDec u) ∧
    decode p .drain dir (.unit u) = .ok (.inDrain u) ∧
    decode p .idle dir (.unit u) = .error .noUnitAccepted ∧
    decode p .fin dir (.unit u) = .error .noUnitAccepted

/-- Command words and beats written out from R61, R62 and R64 with LEN_W = 16 and CHAR_W = 16 (the words of
95_test_vectors.md 2.5, 2.6 and 3.3) decode to what they stand for. That a word of more than 16 bits is read as a command
word, in the six clauses on `decodeTableWord`, is the model's choice (log 9, DESIGN CHOICE). -/
def Obligations.SpecWordsDecode : Prop :=
  decodeTableWord 24 0x10007 = some (.lenEnc 7) ∧ decodeTableWord 24 0x20005 = some (.lenDec 5) ∧
  decodeTableWord 24 0x3FFFF = some (.enc 65535) ∧ decodeTableWord 24 0x4000A = some (.dec 10) ∧
  decodeTableWord 24 0x00005 = some (.reserved000 5) ∧ decodeTableWord 24 0x70005 = some (.reserved111 5) ∧
  decode Config.example16 .run .dec (.unit 0x0141) = .ok (.inDec 0x0141) ∧
  decode Config.example16 .drain .dec (.unit 0x0021) = .ok (.inDrain 0x0021)

/-- Decoding an encoded well-formed transaction, in a state and direction that read its form, gives it back. -/
def Obligations.DecodeOfEncodeIsIdentity : Prop :=
  ∀ (p : Config.Params) (st : Ctl) (dir : Dir) (i : Instr),
    i.wellFormed p = true → i.readIn st dir = true → decode p st dir (encode p i) = .ok i

/-- Each beat has one meaning in a state and direction: what decodes to `i` is the encoding of `i`, and `i` is well
formed and read in that state and direction. -/
def Obligations.EncodeOfDecodeIsIdentity : Prop :=
  ∀ (p : Config.Params) (st : Ctl) (dir : Dir) (b : Beat) (i : Instr),
    decode p st dir b = .ok i → encode p i = b ∧ i.wellFormed p = true ∧ i.readIn st dir = true

/-- The model's placing of a table word (log 9): in a block of the example parameters the very next edge takes exactly
the transaction the word decodes to, and no reset is driven. -/
def Obligations.PlacedWordIsTakenNext : Prop :=
  ∀ (s : State) (nbits w : Nat) (i : Instr),
    s.cfg = Config.example16 → decodeTableWord nbits w = some i →
      (s.withFetchWord nbits w).resetDriven = false ∧ (s.withFetchWord nbits w).takenInstr = some i

/-! ### Alphabet -/

/-- R80, R81. EncMap is the alphabet `A`..`Z`, `a`..`z`, `0`..`9`, `-`, `_` in this order. -/
def Obligations.EncMapIsTheAlphabetInOrder : Prop :=
  (List.range 64).map (fun v => encMap (BitVec.ofNat 6 v)) = alphabetTable ∧
  ∀ v : Code,
    (v.toNat ≤ 25 → (encMap v).toNat = 0x41 + v.toNat) ∧
    (26 ≤ v.toNat → v.toNat ≤ 51 → (encMap v).toNat = 0x61 + (v.toNat - 26)) ∧
    (52 ≤ v.toNat → v.toNat ≤ 61 → (encMap v).toNat = 0x30 + (v.toNat - 52)) ∧
    (v.toNat = 62 → (encMap v).toNat = 0x2D) ∧ (v.toNat = 63 → (encMap v).toNat = 0x5F)

/-- R83, R84, R86. DecLUT is the 256-entry table, it gives `v` exactly on the character of `v`, and the two tables are
inverse to each other. -/
def Obligations.DecLutIsTheTableAndInvertsEncMap : Prop :=
  (∀ c : Byte, decLutTable[c.toNat]? = some (decLut c)) ∧
  (∀ v : Code, decLut (encMap v) = some v) ∧
  ∀ (c : Byte) (v : Code), decLut c = some v ↔ encMap v = c

/-- R87. No character of the alphabet is `+`, `/` or `=`, and so none of any encoded text is. -/
def Obligations.AlphabetHasNoPlusSlashOrPadding : Prop :=
  (∀ v : Code, encMap v ≠ 0x2B ∧ encMap v ≠ 0x2F ∧ encMap v ≠ 0x3D) ∧
  ∀ bs : List Byte, ∀ c ∈ encodeBytes bs, c ≠ 0x2B ∧ c ≠ 0x2F ∧ c ≠ 0x3D

/-- R120. A code of 256 or more is INVALID; any other is looked up, which is every code where CHAR_W = 8; and no code
of 0x80 or more is valid. -/
def Obligations.ClassifierLooksUpEightBitCodes : Prop :=
  ∀ u : Nat, (256 ≤ u → classify u = none) ∧ (u < 256 → classify u = decLut (BitVec.ofNat 8 u)) ∧
    (∀ p : Config.Params, p.charW = 8 → u < 2 ^ p.charW → classify u = decLut (BitVec.ofNat 8 u)) ∧
    (0x80 ≤ u → classify u = none)

/-! ### Lengths -/

/-- R90, R91, R93. CharsForEncode is the ceiling of 4n/3, BytesForDecode refuses n mod 4 = 1 and no other length, and
both have their closed forms. -/
def Obligations.LengthCalculatorsHaveTheirClosedForms : Prop :=
  (∀ n, charsForEncode n = (4 * n + 2) / 3 ∧ 4 * n ≤ 3 * charsForEncode n ∧ 3 * charsForEncode n < 4 * n + 3) ∧
  (∀ n, (bytesForDecode n = none ↔ n % 4 = 1) ∧ (n % 4 ≠ 1 → bytesForDecode n = some (3 * n / 4))) ∧
  ∀ q, charsForEncode (3 * q) = 4 * q ∧ charsForEncode (3 * q + 1) = 4 * q + 2 ∧
    charsForEncode (3 * q + 2) = 4 * q + 3 ∧ bytesForDecode (4 * q) = some (3 * q) ∧
    bytesForDecode (4 * q + 2) = some (3 * q + 1) ∧ bytesForDecode (4 * q + 3) = some (3 * q + 2)

/-- R94. Every length result fits its register, whatever the parameter. -/
def Obligations.LengthResultsFitTheirRegisters : Prop :=
  ∀ (p : Config.Params) (n : Nat), n < 2 ^ p.lenW →
    charsForEncode n ≤ (2 ^ (p.lenW + 2) - 2) / 3 ∧ (2 ^ (p.lenW + 2) - 2) / 3 < 2 ^ (p.lenW + 1) ∧
    ∀ m, bytesForDecode n = some m → m ≤ n ∧ m < 2 ^ p.lenW

/-! ### Block transforms -/

/-- R100, R101, R102. The codes of the pack functions, bit by bit as the rules' second forms give them. -/
def Obligations.PackFunctionsSplitMsbFirst : Prop :=
  ∀ b0 b1 b2 : Byte,
    pack3 b0 b1 b2 = [b0.extractLsb' 2 6, b0.extractLsb' 0 2 ++ b1.extractLsb' 4 4,
      b1.extractLsb' 0 4 ++ b2.extractLsb' 6 2, b2.extractLsb' 0 6] ∧
    tail1 b0 = [b0.extractLsb' 2 6, b0.extractLsb' 0 2 ++ 0#4] ∧
    tail2 b0 b1 = [b0.extractLsb' 2 6, b0.extractLsb' 0 2 ++ b1.extractLsb' 4 4, b1.extractLsb' 0 4 ++ 0#2]

/-- R121, R122, R123. The bytes of the unpack functions, bit by bit as the rules' second forms give them. -/
def Obligations.UnpackFunctionsJoinMsbFirst : Prop :=
  ∀ v0 v1 v2 v3 : Code,
    unpack4 v0 v1 v2 v3 = [v0 ++ v1.extractLsb' 4 2, v1.extractLsb' 0 4 ++ v2.extractLsb' 2 4,
      v2.extractLsb' 0 2 ++ v3] ∧
    dTail2 v0 v1 = [v0 ++ v1.extractLsb' 4 2] ∧
    dTail3 v0 v1 v2 = [v0 ++ v1.extractLsb' 4 2, v1.extractLsb' 0 4 ++ v2.extractLsb' 2 4]

/-- R124. The discarded bits of a decode tail have no effect, and no tail is refused for them. -/
def Obligations.DiscardedTailBitsAreIgnored : Prop :=
  (∀ v0 v1 v1' : Code, v1.extractLsb' 4 2 = v1'.extractLsb' 4 2 → dTail2 v0 v1 = dTail2 v0 v1') ∧
  (∀ v0 v1 v2 v2' : Code, v2.extractLsb' 2 4 = v2'.extractLsb' 2 4 → dTail3 v0 v1 v2 = dTail3 v0 v1 v2') ∧
  decodeText [0x5A, 0x68] = .bytes [0x66] ∧ decodeText [0x5A, 0x67] = .bytes [0x66]

/-- R44, R143. Lane `i` of a beat is its unit `i`, and the lanes it does not use are 0x00. -/
def Obligations.BeatLanesHoldTheUnitsInOrder : Prop :=
  ∀ us : List Byte, us.length ≤ 4 → ∀ i < 4, lane (packLanes us) i = us.getD i 0

/-! ### Whole inputs -/

/-- R103, R125. Encode(B) has CharsForEncode characters, all of the alphabet, and a decoded text BytesForDecode bytes. -/
def Obligations.WholeInputLengths : Prop :=
  (∀ bs : List Byte, (encodeBytes bs).length = charsForEncode bs.length ∧
    ∀ c ∈ encodeBytes bs, ∃ v : Code, encMap v = c) ∧
  ∀ (us : List Nat) (bs : List Byte), decodeText us = .bytes bs → bytesForDecode us.length = some bs.length

/-- R130. Decode inverts Encode on every byte sequence, and block by block; the lengths agree, and no character of an
encoded text is INVALID. -/
def Obligations.DecodeInvertsEncode : Prop :=
  (∀ bs : List Byte, decodeText ((encodeBytes bs).map BitVec.toNat) = .bytes bs) ∧
  (∀ n, bytesForDecode (charsForEncode n) = some n) ∧ (∀ v : Code, classify (encMap v).toNat = some v) ∧
  ∀ b0 b1 b2 : Byte,
    (∀ c0 c1 c2 c3, pack3 b0 b1 b2 = [c0, c1, c2, c3] → unpack4 c0 c1 c2 c3 = [b0, b1, b2]) ∧
    (∀ c0 c1, tail1 b0 = [c0, c1] → dTail2 c0 c1 = [b0]) ∧
    (∀ c0 c1 c2, tail2 b0 b1 = [c0, c1, c2] → dTail3 c0 c1 c2 = [b0, b1])

/-- R149, R150. However a byte sequence is split into chunks, the reference stitcher gives Encode of the whole. -/
def Obligations.SegmentedEncodeEqualsContiguous : Prop :=
  ∀ chunks : List (List Byte), stitchEncode chunks = encodeBytes chunks.flatten

/-- R149, R150. However a text is split into chunks, the reference stitcher gives Decode of the whole, its errors
included. -/
def Obligations.SegmentedDecodeEqualsContiguous : Prop :=
  ∀ chunks : List (List Nat), stitchDecode chunks = decodeText chunks.flatten

/-! ### Commands -/

/-- R95. LEN_ENC, op 0b001, is taken in IDLE, answers OK with (4n+2) div 3, exact, and writes no other register. -/
def Obligations.LenEncAnswersTheEncodedLength : Prop :=
  ∀ (s : State) (n : Nat), s.st = .idle → n < 2 ^ s.cfg.lenW →
    (s.sampled.cmdValid = true → s.sampled.cmdOp = 0b001 → s.sampled.cmdLen = n →
      s.takenInstr = some (.lenEnc n)) ∧
    exec (.lenEnc n) s = .next { s with rspValid := true, rspStatus := .ok, rspLen := (4 * n + 2) / 3 }

/-- R96. LEN_DEC, op 0b010, is taken in IDLE, answers INVALID_LENGTH with 0 where n mod 4 = 1, else OK with 3n div 4,
and writes no other register. -/
def Obligations.LenDecAnswersTheDecodedLength : Prop :=
  ∀ (s : State) (n : Nat), s.st = .idle → n < 2 ^ s.cfg.lenW →
    (s.sampled.cmdValid = true → s.sampled.cmdOp = 0b010 → s.sampled.cmdLen = n →
      s.takenInstr = some (.lenDec n)) ∧
    (n % 4 = 1 →
      exec (.lenDec n) s = .next { s with rspValid := true, rspStatus := .invalidLength, rspLen := 0 }) ∧
    (n % 4 ≠ 1 →
      exec (.lenDec n) s = .next { s with rspValid := true, rspStatus := .ok, rspLen := 3 * n / 4 })

/-- R104. ENC, op 0b011, is taken in IDLE. ENC of no byte answers at once; any other ENC enters RUN with n units to come.
Nothing else changes. -/
def Obligations.EncStartsAnEncodeOperation : Prop :=
  ∀ (s : State) (n : Nat), s.st = .idle → n < 2 ^ s.cfg.lenW →
    (s.sampled.cmdValid = true → s.sampled.cmdOp = 0b011 → s.sampled.cmdLen = n → s.takenInstr = some (.enc n)) ∧
    (n = 0 → exec (.enc n) s = .next { s with rspValid := true, rspStatus := .ok, rspLen := 0 }) ∧
    (n ≠ 0 → exec (.enc n) s = .next
      { s with st := .run, dir := .enc, rem := n, fill := 0, stat := .ok, produced := 0 })

/-- R126. DEC, op 0b100, is taken in IDLE. It refuses a length of class 1 before any unit, answers the empty length at
once, and else enters RUN. Nothing else changes. -/
def Obligations.DecStartsADecodeOperation : Prop :=
  ∀ (s : State) (n : Nat), s.st = .idle → n < 2 ^ s.cfg.lenW →
    (s.sampled.cmdValid = true → s.sampled.cmdOp = 0b100 → s.sampled.cmdLen = n → s.takenInstr = some (.dec n)) ∧
    (n % 4 = 1 → exec (.dec n) s = .next { s with rspValid := true, rspStatus := .invalidLength, rspLen := 0 }) ∧
    (n = 0 → exec (.dec n) s = .next { s with rspValid := true, rspStatus := .ok, rspLen := 0 }) ∧
    (n % 4 ≠ 1 → n ≠ 0 → exec (.dec n) s = .next
      { s with st := .run, dir := .dec, rem := n, fill := 0, stat := .ok, produced := 0 })

/-- R173. The four reserved opcodes, taken in IDLE, answer BAD_COMMAND with 0, whatever the length operand, and write no
other register. -/
def Obligations.ReservedOpcodesAnswerBadCommand : Prop :=
  ∀ (s : State) (n : Nat), s.st = .idle →
    (s.sampled.cmdValid = true → s.sampled.cmdLen = n →
      (s.sampled.cmdOp = 0b000 → s.takenInstr = some (.reserved000 n)) ∧
      (s.sampled.cmdOp = 0b101 → s.takenInstr = some (.reserved101 n)) ∧
      (s.sampled.cmdOp = 0b110 → s.takenInstr = some (.reserved110 n)) ∧
      (s.sampled.cmdOp = 0b111 → s.takenInstr = some (.reserved111 n))) ∧
    exec (.reserved000 n) s = .next { s with rspValid := true, rspStatus := .badCommand, rspLen := 0 } ∧
    exec (.reserved101 n) s = .next { s with rspValid := true, rspStatus := .badCommand, rspLen := 0 } ∧
    exec (.reserved110 n) s = .next { s with rspValid := true, rspStatus := .badCommand, rspLen := 0 } ∧
    exec (.reserved111 n) s = .next { s with rspValid := true, rspStatus := .badCommand, rspLen := 0 }

/-- R140. `cmd_ready` is 1 exactly in IDLE; a command offered there is taken and its opcode selects the transaction;
while an operation is running none is taken. -/
def Obligations.CommandsAreTakenInIdleAlone : Prop :=
  ∀ s : State,
    (s.cmdReady = true ↔ s.st = .idle) ∧
    (s.st = .idle → s.sampled.cmdValid = true →
      s.takenInstr = some (match s.sampled.cmdOp with
        | 0b001 => .lenEnc s.sampled.cmdLen
        | 0b010 => .lenDec s.sampled.cmdLen
        | 0b011 => .enc s.sampled.cmdLen
        | 0b100 => .dec s.sampled.cmdLen
        | 0b000 => .reserved000 s.sampled.cmdLen
        | 0b101 => .reserved101 s.sampled.cmdLen
        | 0b110 => .reserved110 s.sampled.cmdLen
        | 0b111 => .reserved111 s.sampled.cmdLen)) ∧
    (s.st ≠ .idle → ∀ n,
      s.takenInstr ≠ some (.lenEnc n) ∧ s.takenInstr ≠ some (.lenDec n) ∧ s.takenInstr ≠ some (.enc n) ∧
      s.takenInstr ≠ some (.dec n) ∧ s.takenInstr ≠ some (.reserved000 n) ∧ s.takenInstr ≠ some (.reserved101 n) ∧
      s.takenInstr ≠ some (.reserved110 n) ∧ s.takenInstr ≠ some (.reserved111 n))

/-- R176, R50. What a command does in IDLE depends on no register that an earlier operation left: it always completes,
and two blocks of one parameter set start the same operation or give the same response. -/
def Obligations.CommandsDependOnNothingLeftBehind : Prop :=
  ∀ (s s' : State) (op : BitVec 3) (n : Nat), s.st = .idle → s'.st = .idle → s.cfg = s'.cfg →
    ∃ t t', exec (decodeCommand op n) s = .next t ∧ exec (decodeCommand op n) s' = .next t' ∧ t.st = t'.st ∧
      (t.st = .idle → t.rspValid = true ∧ t'.rspValid = true ∧ t.rspStatus = t'.rspStatus ∧ t.rspLen = t'.rspLen) ∧
      (t.st ≠ .idle → t.st = .run ∧ t.dir = t'.dir ∧ t.rem = t'.rem ∧ t.fill = t'.fill ∧ t.stat = t'.stat ∧
        t.produced = t'.produced)

/-! ### Units -/

/-- R105. IN_ENC is taken where it is ready, and never emits over a waiting beat; then branch by branch, with everything
it leaves unchanged. The premises on `rem` hold in every state of the invariants. -/
def Obligations.InEncTakesOneByte : Prop :=
  ∀ (s : State) (u : Nat),
    s.st = .run → s.dir = .enc → s.inReady = true → 1 ≤ s.rem → s.rem < 2 ^ s.cfg.lenW →
    (s.sampled.inValid = true → s.sampled.inData = u → s.takenInstr = some (.inEnc u)) ∧
    (s.fill = 2 ∨ s.rem = 1 → s.outValid = false) ∧
    (s.fill = 2 → exec (.inEnc u) s = .next
      { s with carry := s.carry.put 2 (BitVec.ofNat 8 u), rem := s.rem - 1, fill := 0,
               outValid := true, outCnt := 4,
               outData := packLanes ((pack3 (s.carry.get 0) (s.carry.get 1) (BitVec.ofNat 8 u)).map encMap),
               produced := (s.produced + 4) % 2 ^ (s.cfg.lenW + 1), st := if s.rem = 1 then .fin else .run }) ∧
    (s.fill = 0 → s.rem = 1 → exec (.inEnc u) s = .next
      { s with carry := s.carry.put 0 (BitVec.ofNat 8 u), rem := 0, fill := 0,
               outValid := true, outCnt := 2, outData := packLanes ((tail1 (BitVec.ofNat 8 u)).map encMap),
               produced := (s.produced + 2) % 2 ^ (s.cfg.lenW + 1), st := .fin }) ∧
    (s.fill = 1 → s.rem = 1 → exec (.inEnc u) s = .next
      { s with carry := s.carry.put 1 (BitVec.ofNat 8 u), rem := 0, fill := 0,
               outValid := true, outCnt := 3,
               outData := packLanes ((tail2 (s.carry.get 0) (BitVec.ofNat 8 u)).map encMap),
               produced := (s.produced + 3) % 2 ^ (s.cfg.lenW + 1), st := .fin }) ∧
    (s.fill.val < 2 → s.rem ≠ 1 → exec (.inEnc u) s = .next
      { s with carry := s.carry.put s.fill (BitVec.ofNat 8 u), rem := s.rem - 1, fill := s.fill + 1 })

/-- R127. IN_DEC is taken where it is ready, and never emits over a waiting beat; then branch by branch, with everything
it leaves unchanged; the one-character tail faults (R128). -/
def Obligations.InDecTakesOneCharacter : Prop :=
  ∀ (s : State) (u : Nat),
    s.st = .run → s.dir = .dec → s.inReady = true → 1 ≤ s.rem → s.rem < 2 ^ s.cfg.lenW →
    (s.sampled.inValid = true → s.sampled.inData = u → s.takenInstr = some (.inDec u)) ∧
    (s.fill = 3 ∨ s.rem = 1 → s.outValid = false) ∧
    (classify u = none → exec (.inDec u) s = .next
      { s with rem := s.rem - 1, stat := .invalidCharacter, fill := 0,
               st := if s.rem = 1 then .fin else .drain }) ∧
    ∀ r : Code, classify u = some r →
      (s.fill = 3 → exec (.inDec u) s = .next
        { s with carry := s.carry.put 3 (r.setWidth 8), rem := s.rem - 1, fill := 0,
                 outValid := true, outCnt := 3,
                 outData := packLanes (unpack4 ((s.carry.get 0).extractLsb' 0 6) ((s.carry.get 1).extractLsb' 0 6)
                   ((s.carry.get 2).extractLsb' 0 6) r),
                 produced := (s.produced + 3) % 2 ^ (s.cfg.lenW + 1), st := if s.rem = 1 then .fin else .run }) ∧
      (s.fill = 2 → s.rem = 1 → exec (.inDec u) s = .next
        { s with carry := s.carry.put 2 (r.setWidth 8), rem := 0, fill := 0,
                 outValid := true, outCnt := 2,
                 outData := packLanes (dTail3 ((s.carry.get 0).extractLsb' 0 6) ((s.carry.get 1).extractLsb' 0 6) r),
                 produced := (s.produced + 2) % 2 ^ (s.cfg.lenW + 1), st := .fin }) ∧
      (s.fill = 1 → s.rem = 1 → exec (.inDec u) s = .next
        { s with carry := s.carry.put 1 (r.setWidth 8), rem := 0, fill := 0,
                 outValid := true, outCnt := 1, outData := packLanes (dTail2 ((s.carry.get 0).extractLsb' 0 6) r),
                 produced := (s.produced + 1) % 2 ^ (s.cfg.lenW + 1), st := .fin }) ∧
      (s.fill = 0 → s.rem = 1 → exec (.inDec u) s = .fault .unreachableTail1) ∧
      (s.fill.val < 3 → s.rem ≠ 1 → exec (.inDec u) s = .next
        { s with carry := s.carry.put s.fill (r.setWidth 8), rem := s.rem - 1, fill := s.fill + 1 })

/-- R145. IN_DRAIN is taken in DRAIN whatever waits in the output register; it counts one unit and discards it, whatever
it is. -/
def Obligations.InDrainDiscardsOneUnit : Prop :=
  ∀ (s : State) (u : Nat), s.st = .drain → 1 ≤ s.rem → s.rem < 2 ^ s.cfg.lenW →
    (s.sampled.inValid = true → s.sampled.inData = u → s.takenInstr = some (.inDrain u)) ∧
    exec (.inDrain u) s = .next { s with rem := s.rem - 1, st := if s.rem = 1 then .fin else .drain }

/-- R141. `in_ready`; a unit offered while it is 1 is taken, and one offered while it is 0 is not. -/
def Obligations.UnitsAreTakenWhenReady : Prop :=
  ∀ s : State,
    (s.inReady = true ↔ s.st = .drain ∨
      s.st = .run ∧ ¬(s.outValid = true ∧ (s.fill.val = blockSize s.dir - 1 ∨ s.rem = 1))) ∧
    (s.inReady = true → s.sampled.inValid = true → s.takenInstr = decodeUnit s.st s.dir s.sampled.inData ∧
      s.takenInstr ≠ none) ∧
    (s.inReady = false → ∀ u, s.takenInstr ≠ some (.inEnc u) ∧ s.takenInstr ≠ some (.inDec u) ∧
      s.takenInstr ≠ some (.inDrain u))

/-- The model's log 5 (from R140, R141, U9 and U11): a transaction in a state that does not take it waits, with none of
its effect, on every path. -/
def Obligations.UntakenTransactionsWait : Prop :=
  ∀ (s : State) (n : Nat),
    (s.st ≠ .idle →
      exec (.lenEnc n) s = .next s ∧ exec (.lenDec n) s = .next s ∧ exec (.enc n) s = .next s ∧
      exec (.dec n) s = .next s ∧ exec (.reserved000 n) s = .next s ∧ exec (.reserved101 n) s = .next s ∧
      exec (.reserved110 n) s = .next s ∧ exec (.reserved111 n) s = .next s) ∧
    (s.inReady = false ∨ s.st ≠ .run ∨ s.dir ≠ .enc → exec (.inEnc n) s = .next s) ∧
    (s.inReady = false ∨ s.st ≠ .run ∨ s.dir ≠ .dec → exec (.inDec n) s = .next s) ∧
    (s.st ≠ .drain → exec (.inDrain n) s = .next s)

/-- R45, R145, R173. An encode unit's bits above 7, a drained unit and a reserved command's length are not read. -/
def Obligations.IgnoredOperandBitsHaveNoEffect : Prop :=
  ∀ (s : State) (u v : Nat),
    (u % 256 = v % 256 → exec (.inEnc u) s = exec (.inEnc v) s) ∧
    exec (.inDrain u) s = exec (.inDrain v) s ∧
    exec (.reserved000 u) s = exec (.reserved000 v) s ∧ exec (.reserved101 u) s = exec (.reserved101 v) s ∧
    exec (.reserved110 u) s = exec (.reserved110 v) s ∧ exec (.reserved111 u) s = exec (.reserved111 v) s

/-! ### The clock edge -/

/-- R148. With `rst_n` = 1, the beat that fires decodes to a well-formed transaction, and the step is its effect, on the
state with the response pulse ended and the drive moved on, followed by the output handshake. -/
def Obligations.StepRunsTheDecodedTransaction : Prop :=
  ∀ (s : State) (b : Beat), s.resetDriven = false →
    (s.sampled.cmdValid = true ∧ s.cmdReady = true ∧
        b = .cmd (commandWord s.cfg s.sampled.cmdOp.toNat s.sampled.cmdLen) ∨
      s.sampled.inValid = true ∧ s.inReady = true ∧ b = .unit s.sampled.inData) →
    ∃ i, decode s.cfg s.st s.dir b = .ok i ∧ i.wellFormed s.cfg = true ∧
      (∀ t, exec i { s with rspValid := false, inputs := s.inputs.tail, cycle := s.cycle + 1 } = .next t →
        step s = .next (if s.outValid && s.sampled.outReady then { t with outValid := false } else t)) ∧
      (∀ r, exec i { s with rspValid := false, inputs := s.inputs.tail, cycle := s.cycle + 1 } = .fault r →
        step s = .fault r) ∧
      ∀ r, exec i { s with rspValid := false, inputs := s.inputs.tail, cycle := s.cycle + 1 } ≠ .refused r

/-- R146. The FIN step: with the output register empty the block answers and returns to IDLE; with a beat waiting only
the output handshake happens. `produced` is in its range in every state of the invariants. -/
def Obligations.FinStepAnswersOnceTheRegisterIsEmpty : Prop :=
  ∀ s : State, s.resetDriven = false → s.st = .fin → s.produced < 2 ^ (s.cfg.lenW + 1) →
    (s.outValid = false → step s = .next
      { s with st := .idle, rspValid := true, rspStatus := s.stat,
               rspLen := if s.stat = .ok then s.produced else 0,
               inputs := s.inputs.tail, cycle := s.cycle + 1 }) ∧
    (s.outValid = true → step s = .next
      { s with rspValid := false, outValid := !s.sampled.outReady,
               inputs := s.inputs.tail, cycle := s.cycle + 1 })

/-- R144, R210. A waiting beat is held, whole and unchanged, until it is taken, and taking it empties the register; and
`out_ready` has no effect while no beat waits. -/
def Obligations.WaitingBeatIsHeldUntilTaken : Prop :=
  (∀ s t : State, s.resetDriven = false → s.outValid = true → step s = .next t →
    t.outData = s.outData ∧ t.outCnt = s.outCnt ∧ t.outValid = !s.sampled.outReady) ∧
  ∀ (s : State) (i : Config.Inputs) (rest : List Config.Inputs) (ready : Bool),
    s.inputs = i :: rest → s.outValid = false →
      step { s with inputs := { i with outReady := ready } :: rest } = step s

/-- R147. `rsp_valid` is 1 after exactly the edges that a response-writing rule writes in, and the last response's values
stay until then. -/
def Obligations.ResponseIsAOneCyclePulse : Prop :=
  ∀ s t : State, s.resetDriven = false → step s = .next t →
    (t.rspValid = true ↔
      (∃ n, s.takenInstr = some (.lenEnc n) ∨ s.takenInstr = some (.lenDec n) ∨
        s.takenInstr = some (.reserved000 n) ∨ s.takenInstr = some (.reserved101 n) ∨
        s.takenInstr = some (.reserved110 n) ∨ s.takenInstr = some (.reserved111 n) ∨
        s.takenInstr = some (.enc n) ∧ n = 0 ∨ s.takenInstr = some (.dec n) ∧ (n = 0 ∨ n % 4 = 1)) ∨
      s.st = .fin ∧ s.outValid = false) ∧
    (t.rspValid = false → t.rspStatus = s.rspStatus ∧ t.rspLen = s.rspLen)

/-- R13, R205. An edge in which nothing is taken on an input port and no FIN step is due changes no register but the
ending pulse and a beat that is taken: the block waits. -/
def Obligations.EdgeWithoutBeatChangesNothingElse : Prop :=
  ∀ s : State, s.resetDriven = false → (s.sampled.cmdValid = false ∨ s.st ≠ .idle) →
    (s.sampled.inValid = false ∨ s.inReady = false) → (s.st ≠ .fin ∨ s.outValid = true) →
    step s = .next { s with rspValid := false, outValid := s.outValid && !s.sampled.outReady,
                            inputs := s.inputs.tail, cycle := s.cycle + 1 }

/-- R205, R141. A unit offered in IDLE or FIN is not taken: offering it, or another, or none, makes the same step. -/
def Obligations.UnitsOfferedAtRestHaveNoEffect : Prop :=
  ∀ (s : State) (i : Config.Inputs) (rest : List Config.Inputs) (offered : Bool) (u : Nat),
    s.inputs = i :: rest → s.st = .idle ∨ s.st = .fin →
      s.unitTaken = none ∧
      step { s with inputs := { i with inValid := offered, inData := u } :: rest } = step s

/-- R209, R140. A command offered while the block is busy, and a unit offered while it is not ready, may be withdrawn or
changed: the step is the same. -/
def Obligations.UntakenBeatsMayChange : Prop :=
  ∀ (s : State) (i : Config.Inputs) (rest : List Config.Inputs), s.inputs = i :: rest →
    (s.st ≠ .idle → ∀ (offered : Bool) (op : BitVec 3) (n : Nat),
      step { s with inputs := { i with cmdValid := offered, cmdOp := op, cmdLen := n } :: rest } = step s) ∧
    (s.inReady = false → ∀ (offered : Bool) (u : Nat),
      step { s with inputs := { i with inValid := offered, inData := u } :: rest } = step s)

/-- R153. The state graph of `st`: every transition there is, and when it is made. -/
def Obligations.ControlStateGraph : Prop :=
  ∀ s t : State, step s = .next t →
    (s.resetDriven = true → t.st = .idle) ∧
    (s.resetDriven = false →
      (s.st = .idle →
        (∀ n, n ≠ 0 → s.takenInstr = some (.enc n) → t.st = .run) ∧
        (∀ n, n ≠ 0 → n % 4 ≠ 1 → s.takenInstr = some (.dec n) → t.st = .run) ∧
        (t.st ≠ .idle → t.st = .run ∧ ∃ n, n ≠ 0 ∧
          (s.takenInstr = some (.enc n) ∨ s.takenInstr = some (.dec n) ∧ n % 4 ≠ 1))) ∧
      (s.st = .run → t.st = if s.unitTaken = none then .run else if s.rem = 1 then .fin
        else if s.dir = .dec ∧ s.unitTaken.bind classify = none then .drain else .run) ∧
      (s.st = .drain → t.st = if s.unitTaken ≠ none ∧ s.rem = 1 then .fin else .drain) ∧
      (s.st = .fin → t.st = if s.outValid = false then .idle else .fin))

/-! ### Invariants -/

/-- R36. The invariants (I1) to (I7), with the registers in their ranges, hold after every step from a state in which
they hold. -/
def Obligations.ControlInvariantIsKept : Prop :=
  ∀ s t : State, ControlInv s → WidthInv s → step s = .next t → ControlInv t ∧ WidthInv t

/-- R29, R26, R107, R94. What the registers hold is kept by every step: ranges, zero in unused lanes, codes in the live
FIFO entries of a decode, and the alphabet in every encode beat. -/
def Obligations.DataInvariantIsKept : Prop :=
  ∀ s t : State, ControlInv s → DataInv s → step s = .next t → DataInv t

/-- R128, R178. A step faults exactly where a decode takes a valid character as a one-character tail; it never refuses;
and it does neither in a state of the invariants. -/
def Obligations.OnlyTheUnreachableTailFaults : Prop :=
  ∀ s : State,
    (∀ r, step s = .fault r ↔ s.resetDriven = false ∧ s.sampled.inValid = true ∧ s.inReady = true ∧ s.st = .run ∧
      s.dir = .dec ∧ s.fill = 0 ∧ s.rem = 1 ∧ classify s.sampled.inData ≠ none) ∧
    (∀ r, step s ≠ .refused r) ∧ (ControlInv s → StepSafe s)

/-- R26, R38. Stale FIFO entries are unobservable: two states that differ in them alone make steps that differ in them
alone, and their outputs are equal. -/
def Obligations.StaleEntriesAreUnobservable : Prop :=
  ∀ s t : State, s.forgetStale = t.forgetStale →
    forgetStaleNext (step s) = forgetStaleNext (step t) ∧ s.outputs = t.outputs

/-! ### Whole operations -/

/-- R37 for ENC. In RUN the units accepted, the FIFO and `produced` account for the stream, and at FIN `produced` is
CharsForEncode(n), whatever the timing of the ports. -/
def Obligations.EncodeOperationAccountsForItsStream : Prop :=
  ∀ (s t : State) (n k : Nat) (l : Log), ControlInv s → WidthInv s → s.resetDriven = false →
    s.takenInstr = some (.enc n) → n ≠ 0 → quietRun (k + 1) s = some (t, l) →
      (t.st = .run → EncodeAccounts n l.units t) ∧
      (t.st = .fin → t.stat = .ok ∧ l.units.length = n ∧ t.produced = charsForEncode n)

/-- R37 for DEC. In RUN the units accepted, the FIFO's codes and `produced` account for the stream, and at FIN with OK
`produced` is BytesForDecode(n), whatever the timing of the ports. -/
def Obligations.DecodeOperationAccountsForItsStream : Prop :=
  ∀ (s t : State) (n k : Nat) (l : Log), ControlInv s → WidthInv s → s.resetDriven = false →
    s.takenInstr = some (.dec n) → n ≠ 0 → n % 4 ≠ 1 → quietRun (k + 1) s = some (t, l) →
      (t.st = .run → DecodeAccounts n l.units t) ∧
      (t.st = .fin → l.units.length = n ∧ (t.stat = .ok → bytesForDecode n = some t.produced))

/-- R108. The encode stream law: the units of the output beats are Encode of the stream, beat by beat, and the answer is
OK with CharsForEncode(n), whatever the timing of the ports. -/
def Obligations.EncodeStreamLaw : Prop :=
  ∀ (s t u : State) (n k : Nat) (l : Log), ControlInv s → WidthInv s → s.resetDriven = false →
    s.takenInstr = some (.enc n) → n ≠ 0 → Answers s k t u l →
      l.units.length = n ∧ l.beats.flatten = encodeBytes (l.units.map unitByte) ∧
      l.beats.map List.length = List.replicate (n / 3) 4 ++ (if n % 3 = 0 then [] else [n % 3 + 1]) ∧
      u.rspStatus = .ok ∧ u.rspLen = charsForEncode n ∧ u.st = .idle

/-- R129. The decode stream law: (a) with every character valid the beats are Decode of the stream and the answer is OK
with BytesForDecode(n); (b) with the first invalid character at index j exactly the full blocks before its block are
emitted, all n units are taken, and the answer is INVALID_CHARACTER with 0. Whatever the timing of the ports. -/
def Obligations.DecodeStreamLaw : Prop :=
  ∀ (s t u : State) (n k : Nat) (l : Log), ControlInv s → WidthInv s → s.resetDriven = false →
    s.takenInstr = some (.dec n) → n ≠ 0 → n % 4 ≠ 1 → Answers s k t u l →
      l.units.length = n ∧ u.st = .idle ∧
      ((∀ x ∈ l.units, classify x ≠ none) →
        decodeText l.units = .bytes l.beats.flatten ∧
        l.beats.map List.length = List.replicate (n / 4) 3 ++ (if n % 4 = 0 then [] else [n % 4 - 1]) ∧
        u.rspStatus = .ok ∧ bytesForDecode n = some u.rspLen) ∧
      ∀ j x, l.units[j]? = some x → classify x = none → (∀ y ∈ l.units.take j, classify y ≠ none) →
        decodeText (l.units.take (4 * (j / 4))) = .bytes l.beats.flatten ∧
        l.beats.map List.length = List.replicate (j / 4) 3 ∧
        u.rspStatus = .invalidCharacter ∧ u.rspLen = 0

/-- R155, R212 for ENC. With a unit offered in every cycle and the consumer ready, the response is visible n + 3 cycles
after the command, and one more where n >= 4 and n mod 3 = 1. -/
def Obligations.EncodeLatency : Prop :=
  ∀ (s : State) (n : Nat), ControlInv s → WidthInv s → s.resetDriven = false →
    s.takenInstr = some (.enc n) → n ≠ 0 → OffersFor s (n + 4) →
      ∃ t u l, Answers s (if 4 ≤ n ∧ n % 3 = 1 then n + 3 else n + 2) t u l

/-- R155 for DEC. With a unit offered in every cycle and the consumer ready, the response is visible n + 3 cycles after
the command where it is OK, and n + 2 where it is INVALID_CHARACTER; it is one of the two. -/
def Obligations.DecodeLatency : Prop :=
  ∀ (s : State) (n : Nat), ControlInv s → WidthInv s → s.resetDriven = false →
    s.takenInstr = some (.dec n) → n ≠ 0 → n % 4 ≠ 1 → OffersFor s (n + 3) →
      ∃ k t u l, Answers s k t u l ∧
        (u.rspStatus = .ok ∧ k = n + 2 ∨ u.rspStatus = .invalidCharacter ∧ k = n + 1)

/-- A bounded case of R154. From any state of the invariants inside an operation, a host that offers a unit in every cycle
and a consumer that is ready in every cycle bring the response within two cycles a unit and two more. R154 itself asks
for weak fairness alone. -/
def Obligations.OperationEndsWhenEveryCycleOffersAndTakes : Prop :=
  ∀ s : State, ControlInv s → WidthInv s → s.st ≠ .idle →
    2 * s.rem + 2 ≤ s.inputs.length → (∀ i ∈ s.inputs.take (2 * s.rem + 2), Offers i = true) →
      ∃ k t u l, k ≤ 2 * s.rem + 1 ∧ Answers s k t u l
end

