-- ==== Sys2Proof/Laws/State.lean ====
section
/-! SUPPORT. One lemma per field per register operation, so that no later proof unfolds a record update. -/

namespace Sys2Proof.Machine

@[simp] theorem State.writeCarry_cfg (s : State) (i : Fin 4) (b : Byte) : (s.writeCarry i b).cfg = s.cfg := rfl
@[simp] theorem State.writeCarry_st (s : State) (i : Fin 4) (b : Byte) : (s.writeCarry i b).st = s.st := rfl
@[simp] theorem State.writeCarry_dir (s : State) (i : Fin 4) (b : Byte) : (s.writeCarry i b).dir = s.dir := rfl
@[simp] theorem State.writeCarry_rem (s : State) (i : Fin 4) (b : Byte) : (s.writeCarry i b).rem = s.rem := rfl
@[simp] theorem State.writeCarry_fill (s : State) (i : Fin 4) (b : Byte) : (s.writeCarry i b).fill = s.fill := rfl
@[simp] theorem State.writeCarry_carry (s : State) (i : Fin 4) (b : Byte) : (s.writeCarry i b).carry = s.carry.put i b := rfl
@[simp] theorem State.writeCarry_stat (s : State) (i : Fin 4) (b : Byte) : (s.writeCarry i b).stat = s.stat := rfl
@[simp] theorem State.writeCarry_produced (s : State) (i : Fin 4) (b : Byte) : (s.writeCarry i b).produced = s.produced := rfl
@[simp] theorem State.writeCarry_outValid (s : State) (i : Fin 4) (b : Byte) : (s.writeCarry i b).outValid = s.outValid := rfl
@[simp] theorem State.writeCarry_outData (s : State) (i : Fin 4) (b : Byte) : (s.writeCarry i b).outData = s.outData := rfl
@[simp] theorem State.writeCarry_outCnt (s : State) (i : Fin 4) (b : Byte) : (s.writeCarry i b).outCnt = s.outCnt := rfl
@[simp] theorem State.writeCarry_rspValid (s : State) (i : Fin 4) (b : Byte) : (s.writeCarry i b).rspValid = s.rspValid := rfl
@[simp] theorem State.writeCarry_rspStatus (s : State) (i : Fin 4) (b : Byte) : (s.writeCarry i b).rspStatus = s.rspStatus := rfl
@[simp] theorem State.writeCarry_rspLen (s : State) (i : Fin 4) (b : Byte) : (s.writeCarry i b).rspLen = s.rspLen := rfl
@[simp] theorem State.writeCarry_inputs (s : State) (i : Fin 4) (b : Byte) : (s.writeCarry i b).inputs = s.inputs := rfl
@[simp] theorem State.writeCarry_cycle (s : State) (i : Fin 4) (b : Byte) : (s.writeCarry i b).cycle = s.cycle := rfl

@[simp] theorem State.setFill_cfg (s : State) (k : Fin 4) : (s.setFill k).cfg = s.cfg := rfl
@[simp] theorem State.setFill_st (s : State) (k : Fin 4) : (s.setFill k).st = s.st := rfl
@[simp] theorem State.setFill_dir (s : State) (k : Fin 4) : (s.setFill k).dir = s.dir := rfl
@[simp] theorem State.setFill_rem (s : State) (k : Fin 4) : (s.setFill k).rem = s.rem := rfl
@[simp] theorem State.setFill_fill (s : State) (k : Fin 4) : (s.setFill k).fill = k := rfl
@[simp] theorem State.setFill_carry (s : State) (k : Fin 4) : (s.setFill k).carry = s.carry := rfl
@[simp] theorem State.setFill_stat (s : State) (k : Fin 4) : (s.setFill k).stat = s.stat := rfl
@[simp] theorem State.setFill_produced (s : State) (k : Fin 4) : (s.setFill k).produced = s.produced := rfl
@[simp] theorem State.setFill_outValid (s : State) (k : Fin 4) : (s.setFill k).outValid = s.outValid := rfl
@[simp] theorem State.setFill_outData (s : State) (k : Fin 4) : (s.setFill k).outData = s.outData := rfl
@[simp] theorem State.setFill_outCnt (s : State) (k : Fin 4) : (s.setFill k).outCnt = s.outCnt := rfl
@[simp] theorem State.setFill_rspValid (s : State) (k : Fin 4) : (s.setFill k).rspValid = s.rspValid := rfl
@[simp] theorem State.setFill_rspStatus (s : State) (k : Fin 4) : (s.setFill k).rspStatus = s.rspStatus := rfl
@[simp] theorem State.setFill_rspLen (s : State) (k : Fin 4) : (s.setFill k).rspLen = s.rspLen := rfl
@[simp] theorem State.setFill_inputs (s : State) (k : Fin 4) : (s.setFill k).inputs = s.inputs := rfl
@[simp] theorem State.setFill_cycle (s : State) (k : Fin 4) : (s.setFill k).cycle = s.cycle := rfl

@[simp] theorem State.countUnit_cfg (s : State) : (s.countUnit).cfg = s.cfg := rfl
@[simp] theorem State.countUnit_st (s : State) : (s.countUnit).st = s.st := rfl
@[simp] theorem State.countUnit_dir (s : State) : (s.countUnit).dir = s.dir := rfl
@[simp] theorem State.countUnit_rem (s : State) : (s.countUnit).rem = narrow s.cfg.lenW (s.rem + 2 ^ s.cfg.lenW - 1) := rfl
@[simp] theorem State.countUnit_fill (s : State) : (s.countUnit).fill = s.fill := rfl
@[simp] theorem State.countUnit_carry (s : State) : (s.countUnit).carry = s.carry := rfl
@[simp] theorem State.countUnit_stat (s : State) : (s.countUnit).stat = s.stat := rfl
@[simp] theorem State.countUnit_produced (s : State) : (s.countUnit).produced = s.produced := rfl
@[simp] theorem State.countUnit_outValid (s : State) : (s.countUnit).outValid = s.outValid := rfl
@[simp] theorem State.countUnit_outData (s : State) : (s.countUnit).outData = s.outData := rfl
@[simp] theorem State.countUnit_outCnt (s : State) : (s.countUnit).outCnt = s.outCnt := rfl
@[simp] theorem State.countUnit_rspValid (s : State) : (s.countUnit).rspValid = s.rspValid := rfl
@[simp] theorem State.countUnit_rspStatus (s : State) : (s.countUnit).rspStatus = s.rspStatus := rfl
@[simp] theorem State.countUnit_rspLen (s : State) : (s.countUnit).rspLen = s.rspLen := rfl
@[simp] theorem State.countUnit_inputs (s : State) : (s.countUnit).inputs = s.inputs := rfl
@[simp] theorem State.countUnit_cycle (s : State) : (s.countUnit).cycle = s.cycle := rfl

@[simp] theorem State.endIfLast_cfg (s : State) (l : Bool) : (s.endIfLast l).cfg = s.cfg := by cases l <;> rfl
@[simp] theorem State.endIfLast_st (s : State) (l : Bool) : (s.endIfLast l).st = if l then .fin else s.st := by cases l <;> rfl
@[simp] theorem State.endIfLast_dir (s : State) (l : Bool) : (s.endIfLast l).dir = s.dir := by cases l <;> rfl
@[simp] theorem State.endIfLast_rem (s : State) (l : Bool) : (s.endIfLast l).rem = s.rem := by cases l <;> rfl
@[simp] theorem State.endIfLast_fill (s : State) (l : Bool) : (s.endIfLast l).fill = s.fill := by cases l <;> rfl
@[simp] theorem State.endIfLast_carry (s : State) (l : Bool) : (s.endIfLast l).carry = s.carry := by cases l <;> rfl
@[simp] theorem State.endIfLast_stat (s : State) (l : Bool) : (s.endIfLast l).stat = s.stat := by cases l <;> rfl
@[simp] theorem State.endIfLast_produced (s : State) (l : Bool) : (s.endIfLast l).produced = s.produced := by cases l <;> rfl
@[simp] theorem State.endIfLast_outValid (s : State) (l : Bool) : (s.endIfLast l).outValid = s.outValid := by cases l <;> rfl
@[simp] theorem State.endIfLast_outData (s : State) (l : Bool) : (s.endIfLast l).outData = s.outData := by cases l <;> rfl
@[simp] theorem State.endIfLast_outCnt (s : State) (l : Bool) : (s.endIfLast l).outCnt = s.outCnt := by cases l <;> rfl
@[simp] theorem State.endIfLast_rspValid (s : State) (l : Bool) : (s.endIfLast l).rspValid = s.rspValid := by cases l <;> rfl
@[simp] theorem State.endIfLast_rspStatus (s : State) (l : Bool) : (s.endIfLast l).rspStatus = s.rspStatus := by cases l <;> rfl
@[simp] theorem State.endIfLast_rspLen (s : State) (l : Bool) : (s.endIfLast l).rspLen = s.rspLen := by cases l <;> rfl
@[simp] theorem State.endIfLast_inputs (s : State) (l : Bool) : (s.endIfLast l).inputs = s.inputs := by cases l <;> rfl
@[simp] theorem State.endIfLast_cycle (s : State) (l : Bool) : (s.endIfLast l).cycle = s.cycle := by cases l <;> rfl

@[simp] theorem State.emit_cfg (s : State) (us : List Byte) : (s.emit us).cfg = s.cfg := rfl
@[simp] theorem State.emit_st (s : State) (us : List Byte) : (s.emit us).st = s.st := rfl
@[simp] theorem State.emit_dir (s : State) (us : List Byte) : (s.emit us).dir = s.dir := rfl
@[simp] theorem State.emit_rem (s : State) (us : List Byte) : (s.emit us).rem = s.rem := rfl
@[simp] theorem State.emit_fill (s : State) (us : List Byte) : (s.emit us).fill = s.fill := rfl
@[simp] theorem State.emit_carry (s : State) (us : List Byte) : (s.emit us).carry = s.carry := rfl
@[simp] theorem State.emit_stat (s : State) (us : List Byte) : (s.emit us).stat = s.stat := rfl
@[simp] theorem State.emit_produced (s : State) (us : List Byte) : (s.emit us).produced = narrow (s.cfg.lenW + 1) (s.produced + us.length) := rfl
@[simp] theorem State.emit_outValid (s : State) (us : List Byte) : (s.emit us).outValid = true := rfl
@[simp] theorem State.emit_outData (s : State) (us : List Byte) : (s.emit us).outData = packLanes us := rfl
@[simp] theorem State.emit_outCnt (s : State) (us : List Byte) : (s.emit us).outCnt = BitVec.ofNat 3 us.length := rfl
@[simp] theorem State.emit_rspValid (s : State) (us : List Byte) : (s.emit us).rspValid = s.rspValid := rfl
@[simp] theorem State.emit_rspStatus (s : State) (us : List Byte) : (s.emit us).rspStatus = s.rspStatus := rfl
@[simp] theorem State.emit_rspLen (s : State) (us : List Byte) : (s.emit us).rspLen = s.rspLen := rfl
@[simp] theorem State.emit_inputs (s : State) (us : List Byte) : (s.emit us).inputs = s.inputs := rfl
@[simp] theorem State.emit_cycle (s : State) (us : List Byte) : (s.emit us).cycle = s.cycle := rfl

@[simp] theorem State.respond_cfg (s : State) (e : Status) (n : Nat) : (s.respond e n).cfg = s.cfg := rfl
@[simp] theorem State.respond_st (s : State) (e : Status) (n : Nat) : (s.respond e n).st = s.st := rfl
@[simp] theorem State.respond_dir (s : State) (e : Status) (n : Nat) : (s.respond e n).dir = s.dir := rfl
@[simp] theorem State.respond_rem (s : State) (e : Status) (n : Nat) : (s.respond e n).rem = s.rem := rfl
@[simp] theorem State.respond_fill (s : State) (e : Status) (n : Nat) : (s.respond e n).fill = s.fill := rfl
@[simp] theorem State.respond_carry (s : State) (e : Status) (n : Nat) : (s.respond e n).carry = s.carry := rfl
@[simp] theorem State.respond_stat (s : State) (e : Status) (n : Nat) : (s.respond e n).stat = s.stat := rfl
@[simp] theorem State.respond_produced (s : State) (e : Status) (n : Nat) : (s.respond e n).produced = s.produced := rfl
@[simp] theorem State.respond_outValid (s : State) (e : Status) (n : Nat) : (s.respond e n).outValid = s.outValid := rfl
@[simp] theorem State.respond_outData (s : State) (e : Status) (n : Nat) : (s.respond e n).outData = s.outData := rfl
@[simp] theorem State.respond_outCnt (s : State) (e : Status) (n : Nat) : (s.respond e n).outCnt = s.outCnt := rfl
@[simp] theorem State.respond_rspValid (s : State) (e : Status) (n : Nat) : (s.respond e n).rspValid = true := rfl
@[simp] theorem State.respond_rspStatus (s : State) (e : Status) (n : Nat) : (s.respond e n).rspStatus = e := rfl
@[simp] theorem State.respond_rspLen (s : State) (e : Status) (n : Nat) : (s.respond e n).rspLen = narrow (s.cfg.lenW + 1) n := rfl
@[simp] theorem State.respond_inputs (s : State) (e : Status) (n : Nat) : (s.respond e n).inputs = s.inputs := rfl
@[simp] theorem State.respond_cycle (s : State) (e : Status) (n : Nat) : (s.respond e n).cycle = s.cycle := rfl

@[simp] theorem State.start_cfg (s : State) (d : Dir) (n : Nat) : (s.start d n).cfg = s.cfg := rfl
@[simp] theorem State.start_st (s : State) (d : Dir) (n : Nat) : (s.start d n).st = .run := rfl
@[simp] theorem State.start_dir (s : State) (d : Dir) (n : Nat) : (s.start d n).dir = d := rfl
@[simp] theorem State.start_rem (s : State) (d : Dir) (n : Nat) : (s.start d n).rem = narrow s.cfg.lenW n := rfl
@[simp] theorem State.start_fill (s : State) (d : Dir) (n : Nat) : (s.start d n).fill = 0 := rfl
@[simp] theorem State.start_carry (s : State) (d : Dir) (n : Nat) : (s.start d n).carry = s.carry := rfl
@[simp] theorem State.start_stat (s : State) (d : Dir) (n : Nat) : (s.start d n).stat = .ok := rfl
@[simp] theorem State.start_produced (s : State) (d : Dir) (n : Nat) : (s.start d n).produced = 0 := rfl
@[simp] theorem State.start_outValid (s : State) (d : Dir) (n : Nat) : (s.start d n).outValid = s.outValid := rfl
@[simp] theorem State.start_outData (s : State) (d : Dir) (n : Nat) : (s.start d n).outData = s.outData := rfl
@[simp] theorem State.start_outCnt (s : State) (d : Dir) (n : Nat) : (s.start d n).outCnt = s.outCnt := rfl
@[simp] theorem State.start_rspValid (s : State) (d : Dir) (n : Nat) : (s.start d n).rspValid = s.rspValid := rfl
@[simp] theorem State.start_rspStatus (s : State) (d : Dir) (n : Nat) : (s.start d n).rspStatus = s.rspStatus := rfl
@[simp] theorem State.start_rspLen (s : State) (d : Dir) (n : Nat) : (s.start d n).rspLen = s.rspLen := rfl
@[simp] theorem State.start_inputs (s : State) (d : Dir) (n : Nat) : (s.start d n).inputs = s.inputs := rfl
@[simp] theorem State.start_cycle (s : State) (d : Dir) (n : Nat) : (s.start d n).cycle = s.cycle := rfl

@[simp] theorem State.finish_cfg (s : State) : (s.finish).cfg = s.cfg := rfl
@[simp] theorem State.finish_st (s : State) : (s.finish).st = .idle := rfl
@[simp] theorem State.finish_dir (s : State) : (s.finish).dir = s.dir := rfl
@[simp] theorem State.finish_rem (s : State) : (s.finish).rem = s.rem := rfl
@[simp] theorem State.finish_fill (s : State) : (s.finish).fill = s.fill := rfl
@[simp] theorem State.finish_carry (s : State) : (s.finish).carry = s.carry := rfl
@[simp] theorem State.finish_stat (s : State) : (s.finish).stat = s.stat := rfl
@[simp] theorem State.finish_produced (s : State) : (s.finish).produced = s.produced := rfl
@[simp] theorem State.finish_outValid (s : State) : (s.finish).outValid = s.outValid := rfl
@[simp] theorem State.finish_outData (s : State) : (s.finish).outData = s.outData := rfl
@[simp] theorem State.finish_outCnt (s : State) : (s.finish).outCnt = s.outCnt := rfl
@[simp] theorem State.finish_rspValid (s : State) : (s.finish).rspValid = true := rfl
@[simp] theorem State.finish_rspStatus (s : State) : (s.finish).rspStatus = s.stat := rfl
@[simp] theorem State.finish_rspLen (s : State) : (s.finish).rspLen = narrow (s.cfg.lenW + 1) (responseLength s.stat s.produced) := rfl
@[simp] theorem State.finish_inputs (s : State) : (s.finish).inputs = s.inputs := rfl
@[simp] theorem State.finish_cycle (s : State) : (s.finish).cycle = s.cycle := rfl

@[simp] theorem State.handOver_cfg (s : State) (b : Bool) : (s.handOver b).cfg = s.cfg := by cases b <;> rfl
@[simp] theorem State.handOver_st (s : State) (b : Bool) : (s.handOver b).st = s.st := by cases b <;> rfl
@[simp] theorem State.handOver_dir (s : State) (b : Bool) : (s.handOver b).dir = s.dir := by cases b <;> rfl
@[simp] theorem State.handOver_rem (s : State) (b : Bool) : (s.handOver b).rem = s.rem := by cases b <;> rfl
@[simp] theorem State.handOver_fill (s : State) (b : Bool) : (s.handOver b).fill = s.fill := by cases b <;> rfl
@[simp] theorem State.handOver_carry (s : State) (b : Bool) : (s.handOver b).carry = s.carry := by cases b <;> rfl
@[simp] theorem State.handOver_stat (s : State) (b : Bool) : (s.handOver b).stat = s.stat := by cases b <;> rfl
@[simp] theorem State.handOver_produced (s : State) (b : Bool) : (s.handOver b).produced = s.produced := by cases b <;> rfl
@[simp] theorem State.handOver_outValid (s : State) (b : Bool) : (s.handOver b).outValid = (s.outValid && !b) := by cases b <;> simp [State.handOver]
@[simp] theorem State.handOver_outData (s : State) (b : Bool) : (s.handOver b).outData = s.outData := by cases b <;> rfl
@[simp] theorem State.handOver_outCnt (s : State) (b : Bool) : (s.handOver b).outCnt = s.outCnt := by cases b <;> rfl
@[simp] theorem State.handOver_rspValid (s : State) (b : Bool) : (s.handOver b).rspValid = s.rspValid := by cases b <;> rfl
@[simp] theorem State.handOver_rspStatus (s : State) (b : Bool) : (s.handOver b).rspStatus = s.rspStatus := by cases b <;> rfl
@[simp] theorem State.handOver_rspLen (s : State) (b : Bool) : (s.handOver b).rspLen = s.rspLen := by cases b <;> rfl
@[simp] theorem State.handOver_inputs (s : State) (b : Bool) : (s.handOver b).inputs = s.inputs := by cases b <;> rfl
@[simp] theorem State.handOver_cycle (s : State) (b : Bool) : (s.handOver b).cycle = s.cycle := by cases b <;> rfl

@[simp] theorem State.beginEdge_cfg (s : State) : (s.beginEdge).cfg = s.cfg := rfl
@[simp] theorem State.beginEdge_st (s : State) : (s.beginEdge).st = s.st := rfl
@[simp] theorem State.beginEdge_dir (s : State) : (s.beginEdge).dir = s.dir := rfl
@[simp] theorem State.beginEdge_rem (s : State) : (s.beginEdge).rem = s.rem := rfl
@[simp] theorem State.beginEdge_fill (s : State) : (s.beginEdge).fill = s.fill := rfl
@[simp] theorem State.beginEdge_carry (s : State) : (s.beginEdge).carry = s.carry := rfl
@[simp] theorem State.beginEdge_stat (s : State) : (s.beginEdge).stat = s.stat := rfl
@[simp] theorem State.beginEdge_produced (s : State) : (s.beginEdge).produced = s.produced := rfl
@[simp] theorem State.beginEdge_outValid (s : State) : (s.beginEdge).outValid = s.outValid := rfl
@[simp] theorem State.beginEdge_outData (s : State) : (s.beginEdge).outData = s.outData := rfl
@[simp] theorem State.beginEdge_outCnt (s : State) : (s.beginEdge).outCnt = s.outCnt := rfl
@[simp] theorem State.beginEdge_rspValid (s : State) : (s.beginEdge).rspValid = false := rfl
@[simp] theorem State.beginEdge_rspStatus (s : State) : (s.beginEdge).rspStatus = s.rspStatus := rfl
@[simp] theorem State.beginEdge_rspLen (s : State) : (s.beginEdge).rspLen = s.rspLen := rfl
@[simp] theorem State.beginEdge_inputs (s : State) : (s.beginEdge).inputs = s.inputs.tail := rfl
@[simp] theorem State.beginEdge_cycle (s : State) : (s.beginEdge).cycle = s.cycle + 1 := rfl

end Sys2Proof.Machine
end

