-- ==== Sys2Proof/Laws/Ops.lean ====
section
/-! SUPPORT. What each shared operation can do, said once. -/

namespace Sys2Proof.Machine

theorem narrow_lt (bits v : Nat) : narrow bits v < 2 ^ bits := Nat.mod_lt _ (Nat.two_pow_pos bits)

theorem narrow_eq_self {bits v : Nat} (h : v < 2 ^ bits) : narrow bits v = v := Nat.mod_eq_of_lt h

/-- The narrowing of a decrement (R24): exact where a unit is still to come and the counter is in its range. -/
theorem narrow_pred {bits r : Nat} (h1 : 1 ≤ r) (h2 : r < 2 ^ bits) : narrow bits (r + 2 ^ bits - 1) = r - 1 := by
  have : r + 2 ^ bits - 1 = (r - 1) + 2 ^ bits := by omega
  rw [this, narrow, Nat.add_mod_right, Nat.mod_eq_of_lt (by omega)]

theorem State.cmdReady_iff (s : State) : s.cmdReady = true ↔ s.st = .idle := by simp [State.cmdReady]

/-- `in_ready`, state by state (R141). -/
theorem State.inReady_iff (s : State) :
    s.inReady = true ↔ s.st = .drain ∨ s.st = .run ∧ ¬(s.outValid = true ∧ s.emitNext = true) := by
  unfold State.inReady
  cases s.st <;> cases s.outValid <;> simp

theorem State.emitNext_iff (s : State) :
    s.emitNext = true ↔ s.fill.val = blockSize s.dir - 1 ∨ s.rem = 1 := by
  simp [State.emitNext]

/-- A beat that will emit is taken only into an empty output register (R141). -/
theorem State.outValid_of_emits {s : State} (h : s.inReady = true) (hr : s.st = .run) (he : s.emitNext = true) :
    s.outValid = false := by
  have := (s.inReady_iff.1 h)
  cases hv : s.outValid <;> simp_all

/-- The FIN step changes a state in FIN with an empty output register alone (R146). -/
theorem State.finStep_cases (s : State) :
    s.st = .fin ∧ s.outValid = false ∧ s.finStep = s.finish ∨ (s.st ≠ .fin ∨ s.outValid = true) ∧ s.finStep = s := by
  unfold State.finStep
  by_cases h : s.finFires = true
  · have h' : s.st = .fin ∧ s.outValid = false := by simpa [State.finFires] using h
    exact .inl ⟨h'.1, h'.2, by simp [h]⟩
  · refine .inr ⟨?_, by simp [h]⟩
    cases hv : s.outValid <;> simp_all [State.finFires]

/-- Raising an error leaves everything but the response, or everything but `stat`, `fill` and `st` (R175). -/
theorem State.raiseError_cases (s : State) (e : Status) :
    s.raiseError e = s ∨ s.raiseError e = s.respond e 0 ∨
    e = .invalidCharacter ∧
      s.raiseError e = { s with stat := .invalidCharacter, fill := 0, st := if s.rem = 1 then .fin else .drain } := by
  cases e <;> simp [State.raiseError]

/-- What taking one byte of an encode stream can do (R105). -/
theorem acceptByte_cases (b : Byte) (s : State) :
    (s.fill = 2 ∧ acceptByte b s =
      ((((s.writeCarry 2 b).countUnit.emit ((pack3 (s.carry.get 0) (s.carry.get 1) b).map encMap)).setFill 0).endIfLast
        (s.rem = 1))) ∨
    (s.fill = 0 ∧ s.rem = 1 ∧ acceptByte b s =
      ((((s.writeCarry 0 b).countUnit.emit ((tail1 b).map encMap)).setFill 0).endIfLast true)) ∨
    (s.fill ≠ 2 ∧ s.fill ≠ 0 ∧ s.rem = 1 ∧ acceptByte b s =
      ((((s.writeCarry s.fill b).countUnit.emit ((tail2 (s.carry.get 0) b).map encMap)).setFill 0).endIfLast true)) ∨
    (s.fill ≠ 2 ∧ s.rem ≠ 1 ∧ acceptByte b s = (s.writeCarry s.fill b).countUnit.setFill (s.fill + 1)) := by
  unfold acceptByte
  by_cases h2 : s.fill = 2
  · exact .inl ⟨h2, by simp [h2]⟩
  · by_cases h1 : s.rem = 1
    · by_cases h0 : s.fill = 0
      · exact .inr (.inl ⟨h0, h1, by simp [h0, h1]⟩)
      · exact .inr (.inr (.inl ⟨h2, h0, h1, by simp [h2, h0, h1]⟩))
    · exact .inr (.inr (.inr ⟨h2, h1, by simp [h2, h1]⟩))

/-- What taking one valid character of a decode stream can do (R127, R128). -/
theorem acceptCode_cases (r : Code) (s : State) :
    (s.fill = 3 ∧ acceptCode r s = .next
      ((((s.writeCarry 3 (r.setWidth 8)).countUnit.emit
        (unpack4 (s.carry.code 0) (s.carry.code 1) (s.carry.code 2) r)).setFill 0).endIfLast (s.rem = 1))) ∨
    (s.fill = 2 ∧ s.rem = 1 ∧ acceptCode r s = .next
      ((((s.writeCarry 2 (r.setWidth 8)).countUnit.emit
        (dTail3 (s.carry.code 0) (s.carry.code 1) r)).setFill 0).endIfLast true)) ∨
    (s.fill = 1 ∧ s.rem = 1 ∧ acceptCode r s = .next
      ((((s.writeCarry 1 (r.setWidth 8)).countUnit.emit (dTail2 (s.carry.code 0) r)).setFill 0).endIfLast true)) ∨
    (s.fill = 0 ∧ s.rem = 1 ∧ acceptCode r s = .fault .unreachableTail1) ∨
    (s.fill ≠ 3 ∧ s.rem ≠ 1 ∧ acceptCode r s =
      .next ((s.writeCarry s.fill (r.setWidth 8)).countUnit.setFill (s.fill + 1))) := by
  unfold acceptCode
  by_cases h3 : s.fill = 3
  · exact .inl ⟨h3, by simp [h3]⟩
  · by_cases h1 : s.rem = 1
    · by_cases h2 : s.fill = 2
      · exact .inr (.inl ⟨h2, h1, by simp [h2, h1]⟩)
      · by_cases h1' : s.fill = 1
        · exact .inr (.inr (.inl ⟨h1', h1, by simp [h1', h1]⟩))
        · have h0 : s.fill = 0 := by
            have := s.fill.isLt
            apply Fin.ext
            have a : s.fill.val ≠ 3 := fun h => h3 (Fin.ext h)
            have b : s.fill.val ≠ 2 := fun h => h2 (Fin.ext h)
            have c : s.fill.val ≠ 1 := fun h => h1' (Fin.ext h)
            change s.fill.val = 0
            omega
          exact .inr (.inr (.inr (.inl ⟨h0, h1, by simp [h0, h1]⟩)))
    · exact .inr (.inr (.inr (.inr ⟨h3, h1, by simp [h3, h1]⟩)))

/-- A reserved opcode where it is taken (R173). -/
theorem badCommand_idle {s : State} (h : s.st = .idle) : badCommand s = .next (s.respond .badCommand 0) := by
  simp [badCommand, onCommand, s.cmdReady_iff.2 h, State.raiseError]

theorem exec_lenEnc {s : State} (h : s.st = .idle) (n : Nat) :
    exec (.lenEnc n) s = .next (s.respond .ok (charsForEncode n)) := by
  simp [exec, execLenEnc, onCommand, s.cmdReady_iff.2 h]

theorem exec_lenDec {s : State} (h : s.st = .idle) (n : Nat) :
    exec (.lenDec n) s =
      .next (if n % 4 = 1 then s.respond .invalidLength 0 else s.respond .ok (3 * n / 4)) := by
  by_cases h1 : n % 4 = 1 <;>
    simp [exec, execLenDec, onCommand, s.cmdReady_iff.2 h, bytesForDecode, lenValidDec, h1, State.raiseError]

theorem exec_enc {s : State} (h : s.st = .idle) (n : Nat) :
    exec (.enc n) s = .next (if n = 0 then s.respond .ok 0 else s.start .enc n) := by
  simp [exec, execEnc, onCommand, s.cmdReady_iff.2 h]

theorem exec_dec {s : State} (h : s.st = .idle) (n : Nat) :
    exec (.dec n) s = .next (if n % 4 = 1 then s.respond .invalidLength 0
      else if n = 0 then s.respond .ok 0 else s.start .dec n) := by
  by_cases h1 : n % 4 = 1 <;>
    simp [exec, execDec, onCommand, s.cmdReady_iff.2 h, lenValidDec, h1, State.raiseError]

/-- What a command does where it is taken: it answers at once, or an operation enters RUN (R95, R96, R104, R126, R173). -/
theorem exec_command_cases (op : BitVec 3) (n : Nat) (s : State) (h : s.st = .idle) :
    ∃ t, exec (decodeCommand op n) s = .next t ∧
      ((∃ e m, t = s.respond e m) ∨
       (n ≠ 0 ∧ decodeCommand op n = .enc n ∧ t = s.start .enc n) ∨
       (n ≠ 0 ∧ n % 4 ≠ 1 ∧ decodeCommand op n = .dec n ∧ t = s.start .dec n)) := by
  unfold decodeCommand
  split
  · exact ⟨_, badCommand_idle h, .inl ⟨_, _, rfl⟩⟩
  · exact ⟨_, exec_lenEnc h n, .inl ⟨_, _, rfl⟩⟩
  · refine ⟨_, exec_lenDec h n, .inl ?_⟩
    split <;> exact ⟨_, _, rfl⟩
  · refine ⟨_, exec_enc h n, ?_⟩
    split
    · exact .inl ⟨_, _, rfl⟩
    · rename_i h0
      exact .inr (.inl ⟨h0, rfl, rfl⟩)
  · refine ⟨_, exec_dec h n, ?_⟩
    split
    · exact .inl ⟨_, _, rfl⟩
    · rename_i h1
      split
      · exact .inl ⟨_, _, rfl⟩
      · rename_i h0
        exact .inr (.inr ⟨h0, h1, rfl, rfl⟩)
  · exact ⟨_, badCommand_idle h, .inl ⟨_, _, rfl⟩⟩
  · exact ⟨_, badCommand_idle h, .inl ⟨_, _, rfl⟩⟩
  · exact ⟨_, badCommand_idle h, .inl ⟨_, _, rfl⟩⟩

end Sys2Proof.Machine
end

