-- ==== Sys2Proof/Laws/Step.lean ====
section
/-! SUPPORT. What one clock edge can do, said once (R148). Later proofs cite `step_cases` and unfold no step. -/

namespace Sys2Proof.Machine

@[simp] theorem State.beginEdge_inReady (s : State) : s.beginEdge.inReady = s.inReady := rfl

@[simp] theorem State.beginEdge_cmdReady (s : State) : s.beginEdge.cmdReady = s.cmdReady := rfl

/-- The beat an edge takes: a command in IDLE, or a unit in the form that `st` and `dir` select (R140, R141, R64). -/
theorem State.takenInstr_cases {s : State} {i : Instr} (h : s.takenInstr = some i) :
    (s.st = .idle ∧ s.sampled.cmdValid = true ∧ i = decodeCommand s.sampled.cmdOp s.sampled.cmdLen) ∨
    (s.inFires = true ∧ s.inReady = true ∧
      (s.st = .run ∧ s.dir = .enc ∧ i = .inEnc s.sampled.inData ∨
       s.st = .run ∧ s.dir = .dec ∧ i = .inDec s.sampled.inData ∨
       s.st = .drain ∧ i = .inDrain s.sampled.inData)) := by
  unfold State.takenInstr at h
  by_cases hc : s.cmdFires = true
  · have hc' : s.sampled.cmdValid = true ∧ s.st = .idle := by simpa [State.cmdFires, State.cmdReady] using hc
    exact .inl ⟨hc'.2, hc'.1, by simpa [hc] using h.symm⟩
  · by_cases hi : s.inFires = true
    · have hr : s.inReady = true := by
        have := hi
        simp only [State.inFires, Bool.and_eq_true] at this
        exact this.2
      refine .inr ⟨hi, hr, ?_⟩
      simp only [hc, hi, if_true] at h
      have hs := s.inReady_iff.1 hr
      rcases hs with hs | ⟨hs, -⟩
      · exact .inr (.inr ⟨hs, by simpa [decodeUnit, hs] using h.symm⟩)
      · cases hd : s.dir
        · exact .inl ⟨hs, rfl, by simpa [decodeUnit, hs, hd] using h.symm⟩
        · exact .inr (.inl ⟨hs, rfl, by simpa [decodeUnit, hs, hd] using h.symm⟩)
    · simp [hc, hi] at h

/-- No beat is taken: none is offered, or the block is not ready for it. -/
theorem State.takenInstr_none {s : State} (h : s.takenInstr = none) : s.cmdFires = false ∧ s.inFires = false := by
  unfold State.takenInstr at h
  by_cases hc : s.cmdFires = true
  · simp [hc] at h
  · by_cases hi : s.inFires = true
    · have hr : s.inReady = true := by
        have := hi
        simp only [State.inFires, Bool.and_eq_true] at this
        exact this.2
      rcases s.inReady_iff.1 hr with hs | ⟨hs, -⟩ <;> cases hd : s.dir <;> simp [hc, hi, decodeUnit, hs, hd] at h
    · simp_all

/-- A unit that is offered and accepted is the beat taken. -/
theorem State.takenInstr_of_inFires {s : State} (h : s.inFires = true) :
    s.takenInstr = decodeUnit s.st s.dir s.sampled.inData := by
  have hr : s.inReady = true := by
    simp only [State.inFires, Bool.and_eq_true] at h
    exact h.2
  have : s.cmdFires = false := by
    rcases s.inReady_iff.1 hr with hs | ⟨hs, -⟩ <;> simp [State.cmdFires, State.cmdReady, hs]
  simp [State.takenInstr, this, h]

/-- What a clock edge can do (R148): reset, the taken beat's effect, or the FIN step where it is due; around the last
two the response pulse ends and the output handshake happens. -/
theorem step_cases (s : State) :
    (s.resetDriven = true ∧ step s = .next s.resetEdge) ∨
    (s.resetDriven = false ∧ ∃ i, s.takenInstr = some i ∧ step s = afterEdge s.outFires (exec i s.beginEdge)) ∨
    (s.resetDriven = false ∧ s.takenInstr = none ∧ step s = .next (s.beginEdge.finStep.handOver s.outFires)) := by
  cases hr : s.resetDriven
  · cases ht : s.takenInstr
    · exact .inr (.inr ⟨rfl, rfl, by simp [step, clockEdge, hr, ht, afterEdge]⟩)
    · exact .inr (.inl ⟨rfl, _, rfl, by simp [step, clockEdge, hr, ht]⟩)
  · exact .inl ⟨rfl, by simp [step, clockEdge, hr]⟩

/-- The effect of a taken unit, form by form (R105, R127, R145). -/
theorem exec_inEnc {s : State} (h1 : s.st = .run) (h2 : s.dir = .enc) (h3 : s.inReady = true) (u : Nat) :
    exec (.inEnc u) s = .next (acceptByte (unitByte u) s) := by
  simp [exec, execInEnc, h1, h2, h3]

theorem exec_inDec {s : State} (h1 : s.st = .run) (h2 : s.dir = .dec) (h3 : s.inReady = true) (u : Nat) :
    exec (.inDec u) s = match classify u with
      | some r => acceptCode r s
      | none => .next (s.raiseError .invalidCharacter).countUnit := by
  cases hc : classify u <;> simp [exec, execInDec, h1, h2, h3, hc]

theorem exec_inDrain {s : State} (h1 : s.st = .drain) (u : Nat) :
    exec (.inDrain u) s = .next (s.countUnit.endIfLast (s.rem = 1)) := by
  have : s.inReady = true := s.inReady_iff.2 (.inl h1)
  simp [exec, execInDrain, h1, this]

end Sys2Proof.Machine
end

