-- ==== Sys2Proof/Laws/Edge.lean ====
section
/-! SUPPORT. The inversion of a clock edge that gives a next state: every way it can go, with the state it gives before
the output handshake (R148). Invariants and laws of whole operations follow from `edge_of_step` by cases. -/

namespace Sys2Proof.Machine

/-- A command that answers at once when it is taken: every one but a valid, nonempty ENC or DEC (R95, R96, R104, R126,
R173). -/
def AnswersAtOnce (i : Instr) : Prop :=
  ∃ n, i = .lenEnc n ∨ i = .lenDec n ∨ i = .reserved000 n ∨ i = .reserved101 n ∨ i = .reserved110 n ∨
    i = .reserved111 n ∨ i = .enc n ∧ n = 0 ∨ i = .dec n ∧ (n = 0 ∨ n % 4 = 1)

/-- `EdgeOf s i u`: at an edge of `s` with `rst_n` = 1 that takes `i` (or nothing), the registers become `u`, before the
output handshake is applied. -/
inductive EdgeOf (s : State) : Option Instr → State → Prop
  | response (i : Instr) (rest : s.st = .idle) (answers : AnswersAtOnce i) (e : Status) (m : Nat) :
      EdgeOf s (some i) (s.beginEdge.respond e m)
  | startEnc (n : Nat) (rest : s.st = .idle) (nonempty : n ≠ 0) (fits : n < 2 ^ s.cfg.lenW) :
      EdgeOf s (some (.enc n)) (s.beginEdge.start .enc n)
  | startDec (n : Nat) (rest : s.st = .idle) (nonempty : n ≠ 0) (valid : n % 4 ≠ 1) (fits : n < 2 ^ s.cfg.lenW) :
      EdgeOf s (some (.dec n)) (s.beginEdge.start .dec n)
  | byte (u : Nat) (run : s.st = .run) (enc : s.dir = .enc) (ready : s.inReady = true) (taken : s.unitTaken = some u) :
      EdgeOf s (some (.inEnc u)) (acceptByte (unitByte u) s.beginEdge)
  | invalid (u : Nat) (run : s.st = .run) (dec : s.dir = .dec) (ready : s.inReady = true) (taken : s.unitTaken = some u)
      (bad : classify u = none) :
      EdgeOf s (some (.inDec u)) (s.beginEdge.raiseError .invalidCharacter).countUnit
  | code (u : Nat) (r : Code) (t : State) (run : s.st = .run) (dec : s.dir = .dec) (ready : s.inReady = true)
      (taken : s.unitTaken = some u) (valid : classify u = some r) (accepted : acceptCode r s.beginEdge = .next t) :
      EdgeOf s (some (.inDec u)) t
  | drain (u : Nat) (drains : s.st = .drain) (taken : s.unitTaken = some u) :
      EdgeOf s (some (.inDrain u)) (s.beginEdge.countUnit.endIfLast (s.rem = 1))
  | finish (fin : s.st = .fin) (empty : s.outValid = false) : EdgeOf s none s.beginEdge.finish
  | wait (still : s.st ≠ .fin ∨ s.outValid = true) : EdgeOf s none s.beginEdge

theorem State.unitTaken_of_inFires {s : State} (hr : s.resetDriven = false) (hf : s.inFires = true) :
    s.unitTaken = some s.sampled.inData := by
  simp [State.unitTaken, hr, hf]

theorem State.unitTaken_eq_none {s : State} (hf : s.inFires = false) : s.unitTaken = none := by
  simp [State.unitTaken, hf]

theorem State.sampled_cmdLen_lt (s : State) : s.sampled.cmdLen < 2 ^ s.cfg.lenW := narrow_lt _ _

theorem State.sampled_inData_lt (s : State) : s.sampled.inData < 2 ^ s.cfg.charW := narrow_lt _ _

/-- What a taken command does, with the operation it starts named (R140). -/
theorem exec_command_inversion {op : BitVec 3} {n : Nat} {s u : State} (h : s.st = .idle)
    (he : exec (decodeCommand op n) s = .next u) :
    (AnswersAtOnce (decodeCommand op n) ∧ ∃ e m, u = s.respond e m) ∨
    (decodeCommand op n = .enc n ∧ n ≠ 0 ∧ u = s.start .enc n) ∨
    (decodeCommand op n = .dec n ∧ n ≠ 0 ∧ n % 4 ≠ 1 ∧ u = s.start .dec n) := by
  obtain ⟨t, ht, hc⟩ := exec_command_cases op n s h
  rw [he] at ht
  cases ht
  rcases hc with ⟨e, m, rfl⟩ | ⟨h0, hi, rfl⟩ | ⟨h0, h1, hi, rfl⟩
  · refine .inl ⟨⟨n, ?_⟩, e, m, rfl⟩
    unfold decodeCommand at he ⊢
    split at he <;> simp_all
    · rw [exec_enc h] at he
      split at he
      · assumption
      · simp [State.respond, State.start, h] at he
    · rw [exec_dec h] at he
      split at he
      · exact .inr ‹_›
      · split at he
        · exact .inl ‹_›
        · simp [State.respond, State.start, h] at he
  · exact .inr (.inl ⟨hi, h0, rfl⟩)
  · exact .inr (.inr ⟨hi, h0, h1, rfl⟩)

/-- Every next state of a clock edge with `rst_n` = 1 (R148). -/
theorem edge_of_step {s t : State} (hr : s.resetDriven = false) (hs : step s = .next t) :
    ∃ u, EdgeOf s s.takenInstr u ∧ t = u.handOver s.outFires := by
  rcases step_cases s with ⟨h, -⟩ | ⟨-, i, hi, h⟩ | ⟨-, hi, h⟩
  · simp [hr] at h
  · rw [h] at hs
    cases he : exec i s.beginEdge with
    | fault r => simp [he, afterEdge] at hs
    | refused r => simp [he, afterEdge] at hs
    | next u =>
      refine ⟨u, ?_, by simpa [he, afterEdge] using hs.symm⟩
      rw [hi]
      rcases State.takenInstr_cases hi with ⟨h1, -, h3⟩ | ⟨hf, hir, ⟨h1, h2, rfl⟩ | ⟨h1, h2, rfl⟩ | ⟨h1, rfl⟩⟩
      · rw [h3] at he ⊢
        have hb : s.beginEdge.st = .idle := h1
        rcases exec_command_inversion hb he with ⟨ha, e, m, rfl⟩ | ⟨hd, h0, rfl⟩ | ⟨hd, h0, hv, rfl⟩
        · exact .response _ h1 ha e m
        · rw [hd]; exact .startEnc _ h1 h0 s.sampled_cmdLen_lt
        · rw [hd]; exact .startDec _ h1 h0 hv s.sampled_cmdLen_lt
      · rw [exec_inEnc (s := s.beginEdge) h1 h2 hir] at he
        cases he
        exact .byte _ h1 h2 hir (State.unitTaken_of_inFires hr hf)
      · rw [exec_inDec (s := s.beginEdge) h1 h2 hir] at he
        cases hc : classify s.sampled.inData with
        | none =>
          rw [hc] at he
          cases he
          exact .invalid _ h1 h2 hir (State.unitTaken_of_inFires hr hf) hc
        | some r =>
          rw [hc] at he
          exact .code _ r u h1 h2 hir (State.unitTaken_of_inFires hr hf) hc he
      · rw [exec_inDrain (s := s.beginEdge) h1] at he
        cases he
        exact .drain _ h1 (State.unitTaken_of_inFires hr hf)
  · refine ⟨s.beginEdge.finStep, ?_, by simpa [h] using hs.symm⟩
    rw [hi]
    rcases State.finStep_cases s.beginEdge with ⟨h1, h2, h3⟩ | ⟨h1, h2⟩
    · rw [h3]; exact .finish h1 h2
    · rw [h2]; exact .wait h1

/-- The next states of an accepted valid character (R127). -/
theorem acceptCode_next_cases {r : Code} {s t : State} (h : acceptCode r s = .next t) :
    (s.fill = 3 ∧ t =
      ((((s.writeCarry 3 (r.setWidth 8)).countUnit.emit
        (unpack4 (s.carry.code 0) (s.carry.code 1) (s.carry.code 2) r)).setFill 0).endIfLast (s.rem = 1))) ∨
    (s.fill = 2 ∧ s.rem = 1 ∧ t =
      ((((s.writeCarry 2 (r.setWidth 8)).countUnit.emit
        (dTail3 (s.carry.code 0) (s.carry.code 1) r)).setFill 0).endIfLast true)) ∨
    (s.fill = 1 ∧ s.rem = 1 ∧ t =
      ((((s.writeCarry 1 (r.setWidth 8)).countUnit.emit (dTail2 (s.carry.code 0) r)).setFill 0).endIfLast true)) ∨
    (s.fill ≠ 3 ∧ s.rem ≠ 1 ∧ t = (s.writeCarry s.fill (r.setWidth 8)).countUnit.setFill (s.fill + 1)) := by
  rcases acceptCode_cases r s with ⟨h1, he⟩ | ⟨h1, h2, he⟩ | ⟨h1, h2, he⟩ | ⟨-, -, he⟩ | ⟨h1, h2, he⟩ <;>
    rw [he] at h <;> cases h
  · exact .inl ⟨h1, rfl⟩
  · exact .inr (.inl ⟨h1, h2, rfl⟩)
  · exact .inr (.inr (.inl ⟨h1, h2, rfl⟩))
  · exact .inr (.inr (.inr ⟨h1, h2, rfl⟩))

/-- No transaction is refused. -/
theorem exec_ne_refused (i : Instr) (s : State) (r : Refusal) : exec i s ≠ .refused r := by
  cases i <;> simp only [exec, execLenEnc, execLenDec, execEnc, execDec, execReserved000, execReserved101,
    execReserved110, execReserved111, badCommand, onCommand, execInEnc, execInDec, execInDrain] <;>
    (repeat' split) <;> try simp
  rcases acceptCode_cases (by assumption) s with h | h | h | h | h <;> simp [h]

end Sys2Proof.Machine
end

