-- ==== Sys2Proof/Laws/PerInstr.lean ====
section
/-! SUPPORT. Laws made per transaction. EncodeFits: the beat that carries a well-formed transaction fits its port (R61,
R64). -/

namespace Sys2Proof

/-- A packed command word of a 3-bit opcode and a LEN_W-bit length has LEN_W + 3 bits (R61). -/
theorem commandWord_lt {p : Config.Params} {op n : Nat} (ho : op < 8) (hn : n < 2 ^ p.lenW) :
    commandWord p op n < 2 ^ (p.lenW + 3) := by
  have h : 2 ^ (p.lenW + 3) = 8 * 2 ^ p.lenW := by rw [pow_add]; ring
  have : op * 2 ^ p.lenW + 2 ^ p.lenW ≤ 8 * 2 ^ p.lenW := by
    have := Nat.mul_le_mul_right (2 ^ p.lenW) (Nat.succ_le_of_lt ho)
    rw [Nat.succ_mul] at this
    exact this
  rw [commandWord, h]
  omega

/-- A beat fits its port. -/
def Beat.fits (p : Config.Params) : Beat → Prop
  | .cmd cw => cw < 2 ^ (p.lenW + 3)
  | .unit u => u < 2 ^ p.charW

namespace Laws.EncodeFits

def Statement (i : Instr) : Prop := ∀ p : Config.Params, i.wellFormed p = true → (encode p i).fits p

theorem lenEnc (n : Nat) : Statement (.lenEnc n) := fun _ h => commandWord_lt (by decide) (of_decide_eq_true h)
theorem lenDec (n : Nat) : Statement (.lenDec n) := fun _ h => commandWord_lt (by decide) (of_decide_eq_true h)
theorem enc (n : Nat) : Statement (.enc n) := fun _ h => commandWord_lt (by decide) (of_decide_eq_true h)
theorem dec (n : Nat) : Statement (.dec n) := fun _ h => commandWord_lt (by decide) (of_decide_eq_true h)
theorem reserved000 (n : Nat) : Statement (.reserved000 n) := fun _ h => commandWord_lt (by decide) (of_decide_eq_true h)
theorem reserved101 (n : Nat) : Statement (.reserved101 n) := fun _ h => commandWord_lt (by decide) (of_decide_eq_true h)
theorem reserved110 (n : Nat) : Statement (.reserved110 n) := fun _ h => commandWord_lt (by decide) (of_decide_eq_true h)
theorem reserved111 (n : Nat) : Statement (.reserved111 n) := fun _ h => commandWord_lt (by decide) (of_decide_eq_true h)
theorem inEnc (u : Nat) : Statement (.inEnc u) := fun p h => by
  have : u < 2 ^ p.charW := by simpa [Instr.wellFormed] using h
  exact this
theorem inDec (u : Nat) : Statement (.inDec u) := fun p h => by
  have : u < 2 ^ p.charW := by simpa [Instr.wellFormed] using h
  exact this
theorem inDrain (u : Nat) : Statement (.inDrain u) := fun p h => by
  have : u < 2 ^ p.charW := by simpa [Instr.wellFormed] using h
  exact this

end Laws.EncodeFits

end Sys2Proof
end

