-- ==== Sys2Proof/Machine/HostProgram.lean ====
section
/-! DEFINITION. The host-program notation of 30_encoding.md (R69, R70): a host that plays statements, cycle by cycle,
against the block. It is not part of the block; the step does not call it (log 13). -/

namespace Sys2Proof.Machine

/-- The statements of R69. -/
inductive Stmt where
  /-- RESET k -/
  | reset (k : Nat)
  /-- CMD op n -/
  | cmd (op : BitVec 3) (n : Nat)
  /-- IN v -/
  | unit (v : Nat)
  /-- WAIT_RSP -/
  | waitRsp
  /-- OUTREADY 0 or 1 -/
  | outReady (level : Bool)
  /-- NOP k -/
  | nop (k : Nat)
  deriving DecidableEq, Repr

/-- A host playing a program: the statements left and the level of `out_ready`, 1 at the start (R69). -/
structure Player where
  left : List Stmt
  level : Bool := true
  deriving DecidableEq, Repr

/-- The statements that take no cycle in the current cycle are done at once: OUTREADY sets the level, WAIT_RSP ends
where `rsp_valid` is 1, and RESET and NOP of no cycles end (R69). -/
def settle (rspValid : Bool) : List Stmt → Bool → Player
  | [], level => { left := [], level := level }
  | .outReady l :: rest, _ => settle rspValid rest l
  | .waitRsp :: rest, level =>
    if rspValid then settle rspValid rest level else { left := .waitRsp :: rest, level := level }
  | .reset 0 :: rest, level => settle rspValid rest level
  | .nop 0 :: rest, level => settle rspValid rest level
  | .reset (k + 1) :: rest, level => { left := .reset (k + 1) :: rest, level := level }
  | .nop (k + 1) :: rest, level => { left := .nop (k + 1) :: rest, level := level }
  | .cmd op n :: rest, level => { left := .cmd op n :: rest, level := level }
  | .unit v :: rest, level => { left := .unit v :: rest, level := level }

/-- What the first statement drives in a cycle of the block `s`, and the statements left after it (R69). A beat is held
until it is taken. -/
def Player.drive (p : Player) (s : State) : Config.Inputs × Player :=
  let q := settle s.rspValid p.left p.level
  let quiet := Config.Inputs.quiet q.level
  match q.left with
  | [] => (quiet, q)
  | .reset (k + 1) :: rest => ({ quiet with rstN := false }, { q with left := .reset k :: rest })
  | .reset 0 :: rest => (quiet, { q with left := rest })
  | .nop (k + 1) :: rest => (quiet, { q with left := .nop k :: rest })
  | .nop 0 :: rest => (quiet, { q with left := rest })
  | .cmd op n :: rest =>
    ({ quiet with cmdValid := true, cmdOp := op, cmdLen := n }, if s.cmdReady then { q with left := rest } else q)
  | .unit v :: rest =>
    ({ quiet with inValid := true, inData := v }, if s.inReady then { q with left := rest } else q)
  | .waitRsp :: _ => (quiet, q)
  | .outReady _ :: rest => (quiet, { q with left := rest })

/-- One cycle of the host and the block together. -/
def Player.cycle (p : Player) (s : State) : Host.Outcome (Player × State) Fault Refusal :=
  let d := p.drive s
  match step { s with inputs := [d.1] } with
  | .next t => .next (d.2, t)
  | .fault r => .fault r
  | .refused r => .refused r

/-- ENCODE b0 ... bk-1 (R70). -/
def encodeProgram (bs : List Byte) : List Stmt :=
  .cmd 3 bs.length :: (bs.map (fun b => Stmt.unit b.toNat) ++ [.waitRsp])

/-- DECODE "text" (R70), on character codes. A refused or empty length has no IN statement (R70). -/
def decodeProgram (us : List Nat) : List Stmt :=
  .cmd 4 us.length :: ((if lenValidDec us.length then us.map Stmt.unit else []) ++ [.waitRsp])

/-- LENQ_E n (R70). -/
def lenEncProgram (n : Nat) : List Stmt := [.cmd 1 n, .waitRsp]

/-- LENQ_D n (R70). -/
def lenDecProgram (n : Nat) : List Stmt := [.cmd 2 n, .waitRsp]

end Sys2Proof.Machine
end

