-- ==== Sys2Proof/Tests/Slice0.lean ====
section
/-! SUPPORT. The model's own tests. Every expected value of a `test_` theorem is from the spec: the encodings of
30_encoding.md and the vectors of 95_test_vectors.md, whose section each comment names. A `witness_` theorem shows that
the hypotheses of the obligation it names are met together by a concrete state, clause by clause. -/

namespace Sys2Proof.Tests

open Sys2Proof Sys2Proof.Machine

/-! ### Helpers -/

/-- A cycle with `rst_n` = 1 in which a command is offered. -/
def cmdDrive (op : BitVec 3) (n : Nat) (outReady : Bool) : Config.Inputs :=
  { Config.Inputs.quiet outReady with cmdValid := true, cmdOp := op, cmdLen := n }

/-- A cycle with `rst_n` = 1 in which a unit is offered. -/
def unitDrive (u : Nat) (outReady : Bool) : Config.Inputs :=
  { Config.Inputs.quiet outReady with inValid := true, inData := u }

/-- A cycle with `rst_n` = 0. -/
def resetDrive : Config.Inputs := { Config.Inputs.quiet true with rstN := false }

/-- The reset state with a drive. -/
def idle (drive : List Config.Inputs) : State := State.resetWith Config.example16 drive 0

/-- A state inside an operation. -/
def busy (st : Ctl) (dir : Dir) (rem : Nat) (fill : Fin 4) (c0 c1 c2 : Byte) (drive : List Config.Inputs) : State :=
  { idle drive with st := st, dir := dir, rem := rem, fill := fill, carry := { c0 := c0, c1 := c1, c2 := c2, c3 := 0 } }

/-- A state with a beat waiting in the output register. -/
def holding (s : State) (cnt : BitVec 3) (data : BitVec 32) : State :=
  { s with outValid := true, outCnt := cnt, outData := data }

/-- A state in FIN. -/
def finishing (dir : Dir) (stat : Status) (produced : Nat) (drive : List Config.Inputs) : State :=
  { idle drive with st := .fin, dir := dir, stat := stat, produced := produced }

/-- A state in DRAIN, with `rem` characters to discard. -/
def draining (rem : Nat) (drive : List Config.Inputs) : State :=
  { busy .drain .dec rem 0 0 0 0 drive with stat := .invalidCharacter }

/-- A view of the next state, `none` where the step stops. -/
def after {α : Type} (o : Host.Outcome State Fault Refusal) (view : State → α) : Option α :=
  match o with
  | .next t => some (view t)
  | .fault _ => none
  | .refused _ => none

/-- The registers of an operation that a vector shows. -/
structure Running where
  st : Ctl
  dir : Dir
  rem : Nat
  fill : Nat
  stat : Status
  produced : Nat
  rspValid : Bool
  deriving DecidableEq, Repr

/-- The control state and the response registers. -/
structure Response where
  st : Ctl
  rspValid : Bool
  rspStatus : Status
  rspLen : Nat
  deriving DecidableEq, Repr

/-- The output register. -/
structure Output where
  outValid : Bool
  outCnt : BitVec 3
  outData : BitVec 32
  deriving DecidableEq, Repr

def running (t : State) : Running :=
  { st := t.st, dir := t.dir, rem := t.rem, fill := t.fill.val, stat := t.stat, produced := t.produced,
    rspValid := t.rspValid }

def response (t : State) : Response :=
  { st := t.st, rspValid := t.rspValid, rspStatus := t.rspStatus, rspLen := t.rspLen }

def output (t : State) : Output := { outValid := t.outValid, outCnt := t.outCnt, outData := t.outData }

/-! ### WellFormed: an operand one past its port is refused (R63, R64) -/

theorem test_lengths_of_17_bits_are_ill_formed :
    (Instr.lenEnc 65536).wellFormed Config.example16 = false ∧ (Instr.lenDec 65536).wellFormed Config.example16 = false ∧
    (Instr.enc 65536).wellFormed Config.example16 = false ∧ (Instr.dec 65536).wellFormed Config.example16 = false ∧
    (Instr.reserved000 65536).wellFormed Config.example16 = false ∧
    (Instr.reserved101 65536).wellFormed Config.example16 = false ∧
    (Instr.reserved110 65536).wellFormed Config.example16 = false ∧
    (Instr.reserved111 65536).wellFormed Config.example16 = false := by decide

theorem test_units_of_17_bits_are_ill_formed :
    (Instr.inEnc 65536).wellFormed Config.example16 = false ∧ (Instr.inDec 65536).wellFormed Config.example16 = false ∧
    (Instr.inDrain 65536).wellFormed Config.example16 = false := by decide

theorem test_the_largest_operands_are_well_formed :
    (Instr.enc 65535).wellFormed Config.example16 = true ∧ (Instr.inDec 65535).wellFormed Config.example16 = true := by decide

/-! ### Decoding: words written out from R61, R62 and R64, the command words as 95_test_vectors.md 2.6 has them -/

theorem test_decode_lenEnc : decodeTableWord 24 0x10007 = some (.lenEnc 7) := by decide
theorem test_decode_lenDec : decodeTableWord 24 0x20005 = some (.lenDec 5) := by decide
theorem test_decode_enc : decodeTableWord 24 0x3FFFF = some (.enc 65535) := by decide
theorem test_decode_dec : decodeTableWord 24 0x40002 = some (.dec 2) := by decide
theorem test_decode_reserved000 : decodeTableWord 24 0x00005 = some (.reserved000 5) := by decide
theorem test_decode_reserved101 : decodeTableWord 24 0x50005 = some (.reserved101 5) := by decide
theorem test_decode_reserved110 : decodeTableWord 24 0x60005 = some (.reserved110 5) := by decide
theorem test_decode_reserved111 : decodeTableWord 24 0x70005 = some (.reserved111 5) := by decide

theorem test_decode_units :
    decode Config.example16 .run .enc (.unit 0xAB66) = .ok (.inEnc 0xAB66) ∧
    decode Config.example16 .run .dec (.unit 0x0141) = .ok (.inDec 0x0141) ∧
    decode Config.example16 .drain .dec (.unit 0x0021) = .ok (.inDrain 0x0021) := by
  refine ⟨rfl, rfl, rfl⟩

theorem test_decode_rejects_by_name :
    decode Config.example16 .idle .enc (.cmd 0x80000) = .error .commandWordTooWide ∧
    decode Config.example16 .run .enc (.unit 0x10000) = .error .unitTooWide ∧
    decode Config.example16 .idle .enc (.unit 0x41) = .error .noUnitAccepted ∧
    decode Config.example16 .fin .dec (.unit 0x41) = .error .noUnitAccepted := by
  refine ⟨rfl, rfl, rfl, rfl⟩

/-! ### The tables (95_test_vectors.md 2.2 to 2.4) -/

theorem test_classify :
    classify 0x0041 = some 0 ∧ classify 0x007A = some 51 ∧ classify 0x0141 = none ∧ classify 0x00FF = none ∧
    classify 0xFF41 = none ∧ classify 0x2B = none ∧ classify 0x3D = none ∧ classify 0x5F = some 63 := by decide

theorem test_pack : pack3 0x00 0x10 0x83 = [0, 1, 2, 3] ∧ tail1 0x03 = [0, 48] ∧ tail2 0x00 0x0F = [0, 0, 60] := by decide

theorem test_unpack :
    unpack4 24 38 5 50 = [0x62, 0x61, 0x72] ∧ dTail2 25 47 = [0x66] ∧ dTail3 25 38 61 = [0x66, 0x6F] := by decide

/-! ### One edge for each command (95_test_vectors.md 2.6) -/

theorem test_step_lenEnc : after (step (idle [cmdDrive 1 7 false])) response = some ⟨.idle, true, .ok, 10⟩ := by decide
theorem test_step_lenEnc_largest :
    after (step (idle [cmdDrive 1 65535 false])) response = some ⟨.idle, true, .ok, 87380⟩ := by decide
theorem test_step_lenDec : after (step (idle [cmdDrive 2 7 false])) response = some ⟨.idle, true, .ok, 5⟩ := by decide
theorem test_step_lenDec_refused :
    after (step (idle [cmdDrive 2 5 false])) response = some ⟨.idle, true, .invalidLength, 0⟩ := by decide
theorem test_step_enc :
    after (step (idle [cmdDrive 3 65535 false])) running = some ⟨.run, .enc, 65535, 0, .ok, 0, false⟩ := by decide
theorem test_step_enc_empty : after (step (idle [cmdDrive 3 0 false])) response = some ⟨.idle, true, .ok, 0⟩ := by decide
theorem test_step_dec :
    after (step (idle [cmdDrive 4 2 false])) running = some ⟨.run, .dec, 2, 0, .ok, 0, false⟩ := by decide
theorem test_step_dec_refused :
    after (step (idle [cmdDrive 4 5 false])) response = some ⟨.idle, true, .invalidLength, 0⟩ := by decide
theorem test_step_reserved000 :
    after (step (idle [cmdDrive 0 5 false])) response = some ⟨.idle, true, .badCommand, 0⟩ := by decide
theorem test_step_reserved101 :
    after (step (idle [cmdDrive 5 5 false])) response = some ⟨.idle, true, .badCommand, 0⟩ := by decide
theorem test_step_reserved110 :
    after (step (idle [cmdDrive 6 5 false])) response = some ⟨.idle, true, .badCommand, 0⟩ := by decide
theorem test_step_reserved111 :
    after (step (idle [cmdDrive 7 5 false])) response = some ⟨.idle, true, .badCommand, 0⟩ := by decide

/-! ### One edge for each kind of unit (95_test_vectors.md 2.5) -/

theorem test_step_inEnc_block :
    after (step (busy .run .enc 4 2 0x66 0x6F 0 [unitDrive 0x006F false])) (fun t => (running t, output t)) =
      some (⟨.run, .enc, 3, 0, .ok, 4, false⟩, ⟨true, 4, 0x76396D5A⟩) := by decide
theorem test_step_inEnc_tail_ignores_upper_bits :
    after (step (busy .run .enc 1 0 0 0 0 [unitDrive 0xAB66 false])) (fun t => (running t, output t)) =
      some (⟨.fin, .enc, 0, 0, .ok, 2, false⟩, ⟨true, 2, 0x0000675A⟩) := by decide
theorem test_step_inDec_block :
    after (step (busy .run .dec 5 3 0x19 0x26 0x3D [unitDrive 0x0076 false])) (fun t => (running t, output t)) =
      some (⟨.run, .dec, 4, 0, .ok, 3, false⟩, ⟨true, 3, 0x006F6F66⟩) := by decide
theorem test_step_inDec_invalid :
    after (step (busy .run .dec 3 2 0x19 0x26 0 [unitDrive 0x002B false])) (fun t => (running t, output t)) =
      some (⟨.drain, .dec, 2, 0, .invalidCharacter, 0, false⟩, ⟨false, 0, 0⟩) := by decide
theorem test_step_inDrain_last :
    after (step (draining 1 [unitDrive 0x0021 false])) running =
      some ⟨.fin, .dec, 0, 0, .invalidCharacter, 0, false⟩ := by decide

/-- R128: the one-character tail is the model's only fault. -/
theorem test_unreachable_tail_faults :
    step (busy .run .dec 1 0 0 0 0 [unitDrive 0x0041 false]) = .fault .unreachableTail1 := by rfl

/-! ### Reset, the FIN step and the output handshake (95_test_vectors.md 2.10, 2.11) -/

theorem test_reset_overrides_every_handshake :
    after (step { holding (busy .run .dec 3 2 0x19 0x26 0 [{ unitDrive 0x41 true with rstN := false }]) 3 0x006F6F66
      with produced := 3 }) (fun t => (running t, output t, response t)) =
      some (⟨.idle, .enc, 0, 0, .ok, 0, false⟩, ⟨false, 0, 0⟩, ⟨.idle, false, .ok, 0⟩) := by decide
theorem test_fin_waits_for_its_beat :
    after (step (holding (finishing .enc .ok 8 [Config.Inputs.quiet true]) 4 0x79466D59))
      (fun t => (t.st, output t, t.rspValid)) = some (.fin, ⟨false, 4, 0x79466D59⟩, false) := by decide
theorem test_fin_answers :
    after (step (finishing .enc .ok 8 [Config.Inputs.quiet false])) response = some ⟨.idle, true, .ok, 8⟩ := by decide
theorem test_fin_answers_an_error_with_length_zero :
    after (step (finishing .dec .invalidCharacter 3 [cmdDrive 1 3 true])) response =
      some ⟨.idle, true, .invalidCharacter, 0⟩ := by decide

/-! ### Host programs: LENQ_E 7 as R70 expands it, in the cycle after its command -/

theorem test_lenEncProgram_cycle :
    (match Player.cycle { left := lenEncProgram 7 } (idle []) with
      | .next (p, t) => some (p.left, response t)
      | .fault _ => none
      | .refused _ => none) = some ([.waitRsp], ⟨.idle, true, .ok, 10⟩) := by rfl

/-! ### Placing a table word -/

theorem test_placed_command_runs : after (step (State.reset.withFetchWord 24 0x10007)) response =
    some ⟨.idle, true, .ok, 10⟩ := by decide
theorem test_placed_unit_runs : after (step (State.reset.withFetchWord 16 0x0066)) (fun t => (t.st, output t)) =
    some (.fin, ⟨true, 2, 0x0000675A⟩) := by decide

/-! ### Witnesses: the hypotheses of each obligation, met together, clause by clause at a boundary value -/

/-- A block in RUN at `rst_n` = 0, and a host that offers a command in the cycle after. -/
def beforeReset : State :=
  busy .run .dec 3 2 0x19 0x26 0 [resetDrive, cmdDrive 1 7 true]

theorem witness_ResetEdgeGivesResetValues : beforeReset.resetDriven = true ∧
    ∃ t, step beforeReset = .next t ∧ t.resetDriven = false ∧ t.sampled.cmdValid = true := ⟨rfl, _, rfl, rfl, rfl⟩

theorem witness_ResetStateMeetsTheInvariants : beforeReset.resetDriven = true ∧ beforeReset.cfg = Config.example16 :=
  ⟨rfl, rfl⟩

theorem witness_OpcodeMapIsTotal : 65535 < 2 ^ Config.example16.lenW := by decide

theorem witness_UnitReadingIsSetByStateAndDirection : 65535 < 2 ^ Config.example16.charW := by decide

theorem witness_DecodeOfEncodeIsIdentity :
    (Instr.enc 65535).wellFormed Config.example16 = true ∧ (Instr.enc 65535).readIn .fin .dec = true ∧
    (Instr.inEnc 65535).wellFormed Config.example16 = true ∧ (Instr.inEnc 65535).readIn .run .enc = true ∧
    (Instr.inDec 65535).readIn .run .dec = true ∧ (Instr.inDrain 65535).readIn .drain .dec = true := by decide

theorem witness_EncodeOfDecodeIsIdentity :
    decode Config.example16 .idle .enc (.cmd 0x7FFFF) = .ok (.reserved111 65535) ∧
    decode Config.example16 .run .dec (.unit 0xFFFF) = .ok (.inDec 65535) := ⟨rfl, rfl⟩

theorem witness_PlacedWordIsTakenNext : State.reset.cfg = Config.example16 ∧
    decodeTableWord 24 0x7FFFF = some (.reserved111 65535) ∧ decodeTableWord 16 0xFFFF = some (.inEnc 65535) := by decide

/-- R80's five ranges, at both ends of each. -/
theorem witness_EncMapIsTheAlphabetInOrder :
    (0 : Code).toNat ≤ 25 ∧ (25 : Code).toNat ≤ 25 ∧ 26 ≤ (26 : Code).toNat ∧ (51 : Code).toNat ≤ 51 ∧
    52 ≤ (52 : Code).toNat ∧ (61 : Code).toNat ≤ 61 ∧ (62 : Code).toNat = 62 ∧ (63 : Code).toNat = 63 := by decide

theorem witness_AlphabetHasNoPlusSlashOrPadding : (0x5F : Byte) ∈ encodeBytes [0xFF] := by decide

/-- A code of 128 to 255 falls under two clauses, which agree: 95_test_vectors.md 2.2 has `DecLUT(0xFF)` = INVALID. -/
theorem witness_ClassifierLooksUpEightBitCodes : 256 ≤ 256 ∧ 255 < 256 ∧ 0x80 ≤ 255 ∧ 0x80 ≤ 0x80 ∧
    decLut 0xFF = none ∧ ({ lenW := 2, charW := 8 } : Config.Params).charW = 8 ∧
    255 < 2 ^ ({ lenW := 2, charW := 8 } : Config.Params).charW := by decide

theorem witness_LengthCalculatorsHaveTheirClosedForms : (65533 % 4 = 1) ∧ (65535 % 4 ≠ 1) ∧ (0 % 4 ≠ 1) := by decide

theorem witness_LengthResultsFitTheirRegisters : 65535 < 2 ^ Config.example16.lenW ∧
    bytesForDecode 65535 = some 49151 := by decide

theorem witness_DiscardedTailBitsAreIgnored :
    (32 : Code).extractLsb' 4 2 = (47 : Code).extractLsb' 4 2 ∧
    (60 : Code).extractLsb' 2 4 = (63 : Code).extractLsb' 2 4 := by decide

theorem witness_BeatLanesHoldTheUnitsInOrder : ([0x5A, 0x6D, 0x39, 0x76] : List Byte).length ≤ 4 ∧ 3 < 4 := by decide

theorem witness_WholeInputLengths : decodeText [0x5A, 0x6D, 0x38] = .bytes [0x66, 0x6F] ∧
    (0x5A : Byte) ∈ encodeBytes [0x66] := by decide

theorem witness_DecodeInvertsEncode : pack3 0x66 0x6F 0x6F = [25, 38, 61, 47] ∧ tail1 0x66 = [25, 32] ∧
    tail2 0x66 0x6F = [25, 38, 60] := by decide

/-- A command is offered in IDLE: its valid signal, opcode and length as the block samples them. -/
def offered (s : State) : Ctl × Bool × BitVec 3 × Nat := (s.st, s.sampled.cmdValid, s.sampled.cmdOp, s.sampled.cmdLen)

theorem witness_LenEncAnswersTheEncodedLength : (idle []).st = .idle ∧ 65535 < 2 ^ (idle []).cfg.lenW ∧
    offered (idle [cmdDrive 1 65535 false]) = (.idle, true, 0b001, 65535) := by decide

theorem witness_LenDecAnswersTheDecodedLength : (idle []).st = .idle ∧ 65533 < 2 ^ (idle []).cfg.lenW ∧
    65533 % 4 = 1 ∧ 65535 < 2 ^ (idle []).cfg.lenW ∧ 65535 % 4 ≠ 1 ∧
    offered (idle [cmdDrive 2 65533 false]) = (.idle, true, 0b010, 65533) := by decide

theorem witness_EncStartsAnEncodeOperation : (idle []).st = .idle ∧ 0 < 2 ^ (idle []).cfg.lenW ∧
    65535 < 2 ^ (idle []).cfg.lenW ∧ 65535 ≠ 0 ∧
    offered (idle [cmdDrive 3 65535 false]) = (.idle, true, 0b011, 65535) := by decide

theorem witness_DecStartsADecodeOperation : (idle []).st = .idle ∧ 1 < 2 ^ (idle []).cfg.lenW ∧ 1 % 4 = 1 ∧
    0 < 2 ^ (idle []).cfg.lenW ∧ 65535 < 2 ^ (idle []).cfg.lenW ∧ 65535 % 4 ≠ 1 ∧ 65535 ≠ 0 ∧
    offered (idle [cmdDrive 4 65535 false]) = (.idle, true, 0b100, 65535) := by decide

theorem witness_ReservedOpcodesAnswerBadCommand :
    offered (idle [cmdDrive 0 5 false]) = (.idle, true, 0b000, 5) ∧
    offered (idle [cmdDrive 5 5 false]) = (.idle, true, 0b101, 5) ∧
    offered (idle [cmdDrive 6 5 false]) = (.idle, true, 0b110, 5) ∧
    offered (idle [cmdDrive 7 65535 false]) = (.idle, true, 0b111, 65535) := by decide

theorem witness_CommandsAreTakenInIdleAlone : (idle [cmdDrive 7 65535 false]).st = .idle ∧
    (idle [cmdDrive 7 65535 false]).sampled.cmdValid = true ∧ (draining 1 [cmdDrive 1 7 true]).st ≠ .idle := by decide

/-- Two blocks in IDLE that differ in what an earlier operation left. -/
theorem witness_CommandsDependOnNothingLeftBehind :
    ∃ s : State, s.st = .idle ∧ s.carry ≠ (idle []).carry ∧ s.stat ≠ (idle []).stat ∧ s.cfg = (idle []).cfg :=
  ⟨{ idle [] with stat := .invalidCharacter, carry := { c0 := 1, c1 := 2, c2 := 3, c3 := 4 } }, by decide⟩

/-- Each branch of R105, at the least and the greatest `rem` it has. -/
theorem witness_InEncTakesOneByte :
    let drive := [unitDrive 0xFF66 false]
    (∀ s ∈ [busy .run .enc 1 2 0 0 0 drive, busy .run .enc 65535 2 0 0 0 drive, busy .run .enc 1 0 0 0 0 drive,
        busy .run .enc 1 1 0 0 0 drive, busy .run .enc 2 0 0 0 0 drive, busy .run .enc 65535 1 0 0 0 drive],
      s.st = .run ∧ s.dir = .enc ∧ s.inReady = true ∧ 1 ≤ s.rem ∧ s.rem < 2 ^ s.cfg.lenW ∧
      s.sampled.inValid = true ∧ s.sampled.inData = 0xFF66) := by decide

/-- Each branch of R127, at the least and the greatest `rem` it has, and a character of each kind. -/
theorem witness_InDecTakesOneCharacter :
    let drive := [unitDrive 0x5F false]
    (∀ s ∈ [busy .run .dec 1 3 0 0 0 drive, busy .run .dec 65535 3 0 0 0 drive, busy .run .dec 1 2 0 0 0 drive,
        busy .run .dec 1 1 0 0 0 drive, busy .run .dec 1 0 0 0 0 drive, busy .run .dec 2 0 0 0 0 drive,
        busy .run .dec 65535 2 0 0 0 drive],
      s.st = .run ∧ s.dir = .dec ∧ s.inReady = true ∧ 1 ≤ s.rem ∧ s.rem < 2 ^ s.cfg.lenW ∧
      s.sampled.inValid = true ∧ s.sampled.inData = 0x5F) ∧
    classify 0x3D = none ∧ classify 0x5F = some 63 := by decide

theorem witness_InDrainDiscardsOneUnit :
    (∀ s ∈ [draining 1 [unitDrive 0xFFFF true], draining 65535 [unitDrive 0xFFFF true]],
      s.st = .drain ∧ 1 ≤ s.rem ∧ s.rem < 2 ^ s.cfg.lenW ∧ s.sampled.inValid = true ∧
      s.sampled.inData = 0xFFFF) := by decide

theorem witness_UntakenTransactionsWait : (draining 1 []).st ≠ .idle ∧
    (holding (busy .run .enc 1 0 0 0 0 []) 4 0).inReady = false ∧ (busy .run .enc 1 0 0 0 0 []).dir ≠ .dec ∧
    (busy .run .dec 2 0 0 0 0 []).dir ≠ .enc ∧ (idle []).st ≠ .run ∧ (idle []).st ≠ .drain := by decide

theorem witness_UnitsAreTakenWhenReady : (draining 1 [unitDrive 0 true]).inReady = true ∧
    (draining 1 [unitDrive 0 true]).sampled.inValid = true ∧
    (holding (busy .run .enc 5 2 0 0 0 []) 4 0x76396D5A).inReady = false := by decide

theorem witness_IgnoredOperandBitsHaveNoEffect : 0xAB66 % 256 = 0x66 % 256 := by decide

theorem witness_StepRunsTheDecodedTransaction :
    ((idle [cmdDrive 3 65535 true]).resetDriven = false ∧ (idle [cmdDrive 3 65535 true]).sampled.cmdValid = true ∧
      (idle [cmdDrive 3 65535 true]).cmdReady = true) ∧
    ((draining 1 [unitDrive 65535 true]).resetDriven = false ∧
      (draining 1 [unitDrive 65535 true]).sampled.inValid = true ∧
      (draining 1 [unitDrive 65535 true]).inReady = true) := by decide

/-- The one-character tail, where the transaction that is run faults. -/
theorem witness_StepRunsTheDecodedTransaction_fault :
    (busy .run .dec 1 0 0 0 0 [unitDrive 0x41 true]).inReady = true ∧
    exec (.inDec 0x41) (busy .run .dec 1 0 0 0 0 []) = .fault .unreachableTail1 := ⟨rfl, rfl⟩

theorem witness_FinStepAnswersOnceTheRegisterIsEmpty :
    (∀ s ∈ [finishing .enc .ok 131071 [Config.Inputs.quiet true],
        holding (finishing .enc .ok 87380 [Config.Inputs.quiet false]) 4 0x5F5F5F5F],
      s.resetDriven = false ∧ s.st = .fin ∧ s.produced < 2 ^ (s.cfg.lenW + 1)) := by decide

theorem witness_WaitingBeatIsHeldUntilTaken :
    ∃ s t, s.resetDriven = false ∧ s.outValid = true ∧ step s = .next t :=
  ⟨holding (busy .run .dec 3 1 0x19 0 0 [unitDrive 0x6D false]) 3 0x006F6F66, _, rfl, rfl, rfl⟩

theorem witness_WaitingBeatIsHeldUntilTaken_empty :
    (idle [cmdDrive 1 7 true]).inputs = [cmdDrive 1 7 true] ∧ (idle [cmdDrive 1 7 true]).outValid = false := ⟨rfl, rfl⟩

/-- A step that gives a response and one that gives none. -/
theorem witness_ResponseIsAOneCyclePulse :
    (∃ s t, s.resetDriven = false ∧ step s = .next t ∧ t.rspValid = true) ∧
    ∃ s t, s.resetDriven = false ∧ step s = .next t ∧ t.rspValid = false :=
  ⟨⟨idle [cmdDrive 4 1 true], _, rfl, rfl, rfl⟩, ⟨idle [cmdDrive 4 2 true], _, rfl, rfl, rfl⟩⟩

/-- Each way a cycle has no beat: nothing offered in IDLE, a unit that must wait in RUN, a beat waiting in FIN. -/
theorem witness_EdgeWithoutBeatChangesNothingElse :
    (∀ s ∈ [idle [Config.Inputs.quiet true], holding (busy .run .dec 5 3 0 0 0 [unitDrive 0x41 false]) 3 0,
        holding (finishing .enc .ok 8 [unitDrive 0x41 true]) 4 0],
      s.resetDriven = false ∧ (s.sampled.cmdValid = false ∨ s.st ≠ .idle) ∧
      (s.sampled.inValid = false ∨ s.inReady = false) ∧ (s.st ≠ .fin ∨ s.outValid = true)) := by decide

theorem witness_UnitsOfferedAtRestHaveNoEffect :
    (idle [unitDrive 0x41 true]).inputs = [unitDrive 0x41 true] ∧ (idle [unitDrive 0x41 true]).st = .idle ∧
    (finishing .dec .ok 3 [unitDrive 0x41 true]).inputs = [unitDrive 0x41 true] ∧
    (finishing .dec .ok 3 [unitDrive 0x41 true]).st = .fin := ⟨rfl, rfl, rfl, rfl⟩

theorem witness_UntakenBeatsMayChange :
    (draining 1 [cmdDrive 1 7 true]).inputs = [cmdDrive 1 7 true] ∧ (draining 1 [cmdDrive 1 7 true]).st ≠ .idle ∧
    (holding (busy .run .enc 1 0 0 0 0 [unitDrive 0 true]) 4 0).inputs = [unitDrive 0 true] ∧
    (holding (busy .run .enc 1 0 0 0 0 [unitDrive 0 true]) 4 0).inReady = false := by decide

/-- Every edge of R153's graph, and the reset. -/
theorem witness_ControlStateGraph :
    after (step beforeReset) State.st = some .idle ∧
    after (step (idle [cmdDrive 3 1 true])) State.st = some .run ∧
    after (step (idle [cmdDrive 4 65535 true])) State.st = some .run ∧
    after (step (busy .run .enc 1 0 0 0 0 [unitDrive 0 true])) State.st = some .fin ∧
    after (step (busy .run .dec 2 0 0 0 0 [unitDrive 0x3D true])) State.st = some .drain ∧
    after (step (busy .run .dec 1 1 0 0 0 [unitDrive 0x3D true])) State.st = some .fin ∧
    after (step (draining 1 [unitDrive 0 true])) State.st = some .fin ∧
    after (step (finishing .enc .ok 2 [Config.Inputs.quiet true])) State.st = some .idle := by decide

/-- A state in RUN of the invariants, with a beat waiting, whose step gives a next state. -/
def sound : State := holding (busy .run .dec 3 1 0x19 0 0 [unitDrive 0x6D false]) 3 0x006F6F66

theorem witness_ControlInvariantIsKept : ControlInv sound ∧ WidthInv sound ∧ ∃ t, step sound = .next t :=
  ⟨by decide, by decide, _, rfl⟩

theorem witness_DataInvariantIsKept : ControlInv sound ∧ DataInv sound ∧ ∃ t, step sound = .next t :=
  ⟨by decide, ⟨by decide, by decide, by decide, by decide⟩, _, rfl⟩

/-- An encode beat of the alphabet, for the clause that `sound`, a decode, does not show. -/
theorem witness_DataInvariantIsKept_encode :
    ControlInv (holding (finishing .enc .ok 2 []) 2 0x0000675A) ∧
    ∀ u ∈ (holding (finishing .enc .ok 2 []) 2 0x0000675A).outUnits, ∃ v : Code, encMap v = u := by decide

theorem witness_OnlyTheUnreachableTailFaults :
    step (busy .run .dec 1 0 0 0 0 [unitDrive 0x41 true]) = .fault .unreachableTail1 ∧ ControlInv sound :=
  ⟨rfl, by decide⟩

theorem witness_StaleEntriesAreUnobservable :
    ∃ s t : State, s ≠ t ∧ s.forgetStale = t.forgetStale :=
  ⟨busy .run .dec 3 1 0x19 0 0 [], busy .run .dec 3 1 0x19 0x26 0x3D [], by decide, rfl⟩

/-- ENC of one byte, the consumer ready. -/
def encodeOne : State :=
  idle [cmdDrive 3 1 true, unitDrive 0x66 true, unitDrive 0 true, unitDrive 0 true, unitDrive 0 true]

theorem witness_EncodeOperationAccountsForItsStream : ControlInv encodeOne ∧ WidthInv encodeOne ∧
    encodeOne.resetDriven = false ∧ encodeOne.takenInstr = some (.enc 1) ∧
    (∃ t l, quietRun 1 encodeOne = some (t, l) ∧ t.st = .run) ∧
    ∃ t l, quietRun 2 encodeOne = some (t, l) ∧ t.st = .fin :=
  ⟨by decide, by decide, rfl, rfl, ⟨_, _, rfl, rfl⟩, ⟨_, _, rfl, rfl⟩⟩

theorem witness_EncodeStreamLaw : ∃ t u l, Answers encodeOne 3 t u l ∧ l.units = [0x66] ∧
    l.beats = [[0x5A, 0x67]] ∧ u.rspLen = 2 := ⟨_, _, _, ⟨rfl, rfl, rfl, rfl⟩, rfl, rfl, rfl⟩

/-- DEC of two characters, the consumer ready. -/
def decodeTwo (second : Nat) : State :=
  idle [cmdDrive 4 2 true, unitDrive 0x5A true, unitDrive second true, unitDrive 0 true, unitDrive 0 true,
    unitDrive 0 true]

theorem witness_DecodeOperationAccountsForItsStream : ControlInv (decodeTwo 0x67) ∧ WidthInv (decodeTwo 0x67) ∧
    (decodeTwo 0x67).resetDriven = false ∧ (decodeTwo 0x67).takenInstr = some (.dec 2) ∧ 2 ≠ 0 ∧ 2 % 4 ≠ 1 ∧
    (∃ t l, quietRun 2 (decodeTwo 0x67) = some (t, l) ∧ t.st = .run) ∧
    ∃ t l, quietRun 3 (decodeTwo 0x67) = some (t, l) ∧ t.st = .fin ∧ t.stat = .ok :=
  ⟨by decide, by decide, rfl, rfl, by decide, by decide, ⟨_, _, rfl, rfl⟩, ⟨_, _, rfl, rfl, rfl⟩⟩

theorem witness_DecodeStreamLaw_valid : ∃ t u l, Answers (decodeTwo 0x67) 4 t u l ∧
    (∀ x ∈ l.units, classify x ≠ none) ∧ l.beats = [[0x66]] ∧ u.rspLen = 1 :=
  ⟨_, _, _, ⟨rfl, rfl, rfl, rfl⟩, by decide, rfl, rfl⟩

/-- The first invalid character is the last unit. -/
theorem witness_DecodeStreamLaw_invalid : ∃ t u l, Answers (decodeTwo 0x3D) 3 t u l ∧
    l.units[1]? = some 0x3D ∧ classify 0x3D = none ∧ (∀ y ∈ l.units.take 1, classify y ≠ none) ∧
    u.rspStatus = .invalidCharacter := ⟨_, _, _, ⟨rfl, rfl, rfl, rfl⟩, rfl, rfl, by decide, rfl⟩

theorem witness_EncodeLatency : OffersFor encodeOne (1 + 4) := by
  refine ⟨by decide, by decide⟩

/-- The bubble of R212: the hypotheses at n = 4. -/
theorem witness_EncodeLatency_bubble : (4 ≤ 4 ∧ 4 % 3 = 1) ∧
    (idle (cmdDrive 3 4 true :: List.replicate 7 (unitDrive 0x66 true))).takenInstr = some (.enc 4) ∧
    OffersFor (idle (cmdDrive 3 4 true :: List.replicate 7 (unitDrive 0x66 true))) (4 + 4) := by
  refine ⟨by decide, rfl, by decide, by decide⟩

theorem witness_DecodeLatency : OffersFor (decodeTwo 0x67) (2 + 3) ∧ OffersFor (decodeTwo 0x3D) (2 + 3) := by
  refine ⟨⟨by decide, by decide⟩, by decide, by decide⟩

theorem witness_OperationEndsWhenEveryCycleOffersAndTakes :
    ∃ s : State, ControlInv s ∧ WidthInv s ∧ s.st ≠ .idle ∧ 2 * s.rem + 2 ≤ s.inputs.length ∧
      (∀ i ∈ s.inputs.take (2 * s.rem + 2), Offers i = true) :=
  ⟨holding (busy .run .enc 1 0 0 0 0 (List.replicate 4 (unitDrive 0x66 true))) 4 0, by decide, by decide, by decide,
    by decide, by decide⟩

end Sys2Proof.Tests
end

section
/-! Scope: the edge at which no input beat is taken and no FIN step is due (R13, R205, R206, R148). -/

namespace Sys2Proof.Machine

/-- `cmd_fire` fails where no command is offered or the block is not in IDLE (R140, R148). -/
theorem State.cmdFires_eq_false_iff (s : State) :
    s.cmdFires = false ↔ s.sampled.cmdValid = false ∨ s.st ≠ .idle := by
  simp [State.cmdFires, State.cmdReady, -Bool.and_eq_false_imp, Bool.and_eq_false_iff]

/-- `in_fire` fails where no unit is offered or the block is not ready for one (R141, R148). -/
theorem State.inFires_eq_false_iff (s : State) :
    s.inFires = false ↔ s.sampled.inValid = false ∨ s.inReady = false :=
  Bool.and_eq_false_iff

/-- The converse of `State.takenInstr_none`: where neither input port fires, the edge takes no beat. -/
theorem State.takenInstr_eq_none {s : State} (hc : s.cmdFires = false) (hi : s.inFires = false) :
    s.takenInstr = none := by
  simp [State.takenInstr, hc, hi]

/-- The FIN step waits outside FIN, and in FIN behind a beat that is not yet taken (R146). -/
theorem State.finStep_eq_self {s : State} (h : s.st ≠ .fin ∨ s.outValid = true) : s.finStep = s := by
  rcases s.finStep_cases with ⟨hst, hempty, -⟩ | ⟨-, hwait⟩
  · simp [hst, hempty] at h
  · exact hwait

/-- The output handshake as one register write: it touches `out_valid` alone (R144). -/
theorem State.handOver_eq (s : State) (taken : Bool) :
    s.handOver taken = { s with outValid := s.outValid && !taken } := by
  cases taken <;> simp [State.handOver]

/-- A beat is still held after the handshake where it was held and the consumer was not ready (R144). -/
theorem State.outValid_and_not_outFires (s : State) :
    (s.outValid && !s.outFires) = (s.outValid && !s.sampled.outReady) := by
  cases h : s.outValid <;> simp [State.outFires, h]

/-- An edge with `rst_n` = 1 that takes no input beat makes the FIN step, where it is due, and the output handshake
(R148). -/
theorem step_of_takenInstr_none {s : State} (hr : s.resetDriven = false) (ht : s.takenInstr = none) :
    step s = .next (s.beginEdge.finStep.handOver s.outFires) := by
  rcases step_cases s with ⟨hreset, -⟩ | ⟨-, i, htaken, -⟩ | ⟨-, -, hstep⟩
  · simp [hr] at hreset
  · simp [ht] at htaken
  · exact hstep

/-- Settles O40: neither input port fires, so only the FIN step and the output handshake remain, and the FIN step
waits. -/
theorem edgeWithoutBeatChangesNothingElse : Obligations.EdgeWithoutBeatChangesNothingElse := by
  intro s hr hcmd hin hfin
  have htaken : s.takenInstr = none :=
    State.takenInstr_eq_none (s.cmdFires_eq_false_iff.2 hcmd) (s.inFires_eq_false_iff.2 hin)
  have hwait : s.beginEdge.finStep = s.beginEdge := State.finStep_eq_self hfin
  rw [step_of_takenInstr_none hr htaken, hwait, State.handOver_eq, State.beginEdge_outValid,
    State.outValid_and_not_outFires]
  rfl

end Sys2Proof.Machine
end

section
/-! Scope: a valid unit taken in RUN, told once for both directions. It is stored in the FIFO, or it completes the
current block, which is emitted (R105, R127). -/

namespace Sys2Proof.Machine

/-- The units of the current block, oldest first (R26). -/
def State.live (s : State) : List Byte := [s.carry.c0, s.carry.c1, s.carry.c2].take s.fill.val

/-- What a FIFO entry holds of the unit `u` (R105, R127); `none` where the unit is an invalid character. -/
def entryOf : Dir → Nat → Option Byte
  | .enc, u => some (unitByte u)
  | .dec, u => (classify u).map (BitVec.setWidth 8)

/-- How many output units `k` input units make at the end of a stream (R90, R91). -/
def outUnitCount : Dir → Nat → Nat
  | .enc, k => charsForEncode k
  | .dec, k => 3 * k / 4

/-- The output units of the current block with the entry `b` after it (R103, R125). -/
def State.block (s : State) (b : Byte) : List Byte :=
  match s.dir with
  | .enc => encodeBytes (s.live ++ [b])
  | .dec => decodeCodes ((s.live ++ [b]).map (BitVec.setWidth 6))

/-- The entry `b` completes the current block, which is emitted; the last unit ends the operation. -/
def State.emitBlock (s : State) (b : Byte) : State :=
  (((s.writeCarry s.fill b).countUnit.emit (s.block b)).setFill 0).endIfLast (s.rem = 1)

/-- The entry `b` joins the current block. -/
def State.store (s : State) (b : Byte) : State := (s.writeCarry s.fill b).countUnit.setFill (s.fill + 1)

/-- A valid unit with the entry `b` is taken in RUN (R105, R127). -/
def State.accept (s : State) (b : Byte) : State := if s.emitNext then s.emitBlock b else s.store b

theorem State.accept_of_emitNext {s : State} (h : s.emitNext = true) (b : Byte) : s.accept b = s.emitBlock b := by
  simp [State.accept, h]

theorem State.accept_of_not_emitNext {s : State} (h : s.emitNext = false) (b : Byte) : s.accept b = s.store b := by
  simp [State.accept, h]

/-- In an encode block of at most three bytes R105 is `State.accept`. -/
theorem acceptByte_eq_accept {s : State} (hd : s.dir = .enc) (hf : s.fill.val ≤ 2) (b : Byte) :
    acceptByte b s = s.accept b := by
  have hemit := s.emitNext_iff
  rw [hd] at hemit
  rcases acceptByte_cases b s with ⟨h2, he⟩ | ⟨h0, h1, he⟩ | ⟨h2, h0, h1, he⟩ | ⟨h2, h1, he⟩
  · rw [he, State.accept_of_emitNext (hemit.2 (.inl (by simp [h2, blockSize])))]
    simp [State.emitBlock, State.block, State.live, hd, h2, encodeBytes, encodeCodes, Carry.get]
  · rw [he, State.accept_of_emitNext (hemit.2 (.inr h1))]
    simp [State.emitBlock, State.block, State.live, hd, h0, h1, encodeBytes, encodeCodes]
  · have hfill : s.fill = 1 := by omega
    rw [he, State.accept_of_emitNext (hemit.2 (.inr h1))]
    simp [State.emitBlock, State.block, State.live, hd, hfill, h1, encodeBytes, encodeCodes, Carry.get]
  · have hno : ¬ s.emitNext = true := by
      rw [hemit, blockSize]
      omega
    rw [he, State.accept_of_not_emitNext (by simpa using hno)]
    rfl

/-- R127 is `State.accept` where the character is no one-character tail (R128). -/
theorem acceptCode_eq_accept {s : State} (hd : s.dir = .dec) (htail : ¬(s.fill = 0 ∧ s.rem = 1)) (r : Code) :
    acceptCode r s = .next (s.accept (r.setWidth 8)) := by
  have hemit := s.emitNext_iff
  rw [hd] at hemit
  rcases acceptCode_cases r s with ⟨h3, he⟩ | ⟨h2, h1, he⟩ | ⟨hf, h1, he⟩ | ⟨h0, h1, -⟩ | ⟨h3, h1, he⟩
  · rw [he, State.accept_of_emitNext (hemit.2 (.inl (by simp [h3, blockSize])))]
    simp [State.emitBlock, State.block, State.live, hd, h3, decodeCodes, Carry.get, Carry.code]
  · rw [he, State.accept_of_emitNext (hemit.2 (.inr h1))]
    simp [State.emitBlock, State.block, State.live, hd, h2, h1, decodeCodes, Carry.get, Carry.code]
  · rw [he, State.accept_of_emitNext (hemit.2 (.inr h1))]
    simp [State.emitBlock, State.block, State.live, hd, hf, h1, decodeCodes, Carry.get, Carry.code]
  · exact absurd ⟨h0, h1⟩ htail
  · have hno : ¬ s.emitNext = true := by
      rw [hemit, blockSize]
      omega
    rw [he, State.accept_of_not_emitNext (by simpa using hno)]
    rfl

theorem encodeCodes_length (bs : List Byte) : (encodeCodes bs).length = charsForEncode bs.length := by
  fun_induction encodeCodes bs with
  | case1 b0 b1 b2 rest ih =>
    simp only [List.length_append, List.length_cons, ih, charsForEncode, pack3, List.length_nil]
    omega
  | case2 | case3 | case4 => simp [tail1, tail2, charsForEncode]

theorem encodeBytes_length (bs : List Byte) : (encodeBytes bs).length = charsForEncode bs.length := by
  rw [encodeBytes, List.length_map, encodeCodes_length]

theorem decodeCodes_length (vs : List Code) : (decodeCodes vs).length = 3 * vs.length / 4 := by
  fun_induction decodeCodes vs with
  | case1 v0 v1 v2 v3 rest ih =>
    simp only [List.length_append, List.length_cons, ih, unpack4, List.length_nil]
    omega
  | case2 | case3 | case4 | case5 => simp [dTail2, dTail3]

theorem mem_encodeBytes {bs : List Byte} {c : Byte} (h : c ∈ encodeBytes bs) : ∃ v : Code, encMap v = c := by
  obtain ⟨v, -, hv⟩ := List.mem_map.1 h
  exact ⟨v, hv⟩

theorem State.live_length (s : State) : s.live.length = s.fill.val := by
  simp only [State.live, List.length_take, List.length_cons, List.length_nil]
  omega

theorem State.block_length (s : State) (b : Byte) : (s.block b).length = outUnitCount s.dir (s.fill.val + 1) := by
  cases hd : s.dir <;>
    simp [State.block, hd, outUnitCount, encodeBytes_length, decodeCodes_length, State.live_length]

/-- The decrement of `rem` that a taken unit makes, where one is still to come (R24). -/
theorem State.countUnit_rem_eq {s : State} (h1 : 1 ≤ s.rem) (hw : WidthInv s) : s.countUnit.rem = s.rem - 1 :=
  narrow_pred h1 hw.1

theorem State.emitNext_eq_false_iff {s : State} :
    s.emitNext = false ↔ s.fill.val ≠ blockSize s.dir - 1 ∧ s.rem ≠ 1 := by
  rw [← Bool.not_eq_true, s.emitNext_iff, not_or]

/-! The registers after a block is emitted. -/

theorem State.emitBlock_st (s : State) (b : Byte) : (s.emitBlock b).st = if s.rem = 1 then .fin else s.st := by
  simp [State.emitBlock]

theorem State.emitBlock_rem {s : State} (h1 : 1 ≤ s.rem) (hw : WidthInv s) (b : Byte) :
    (s.emitBlock b).rem = s.rem - 1 := by
  simpa [State.emitBlock] using State.countUnit_rem_eq h1 hw

@[simp] theorem State.emitBlock_cfg (s : State) (b : Byte) : (s.emitBlock b).cfg = s.cfg := by simp [State.emitBlock]
@[simp] theorem State.emitBlock_dir (s : State) (b : Byte) : (s.emitBlock b).dir = s.dir := by simp [State.emitBlock]
@[simp] theorem State.emitBlock_fill (s : State) (b : Byte) : (s.emitBlock b).fill = 0 := by simp [State.emitBlock]
@[simp] theorem State.emitBlock_stat (s : State) (b : Byte) : (s.emitBlock b).stat = s.stat := by
  simp [State.emitBlock]
@[simp] theorem State.emitBlock_produced (s : State) (b : Byte) :
    (s.emitBlock b).produced = narrow (s.cfg.lenW + 1) (s.produced + (s.block b).length) := by simp [State.emitBlock]
@[simp] theorem State.emitBlock_outData (s : State) (b : Byte) : (s.emitBlock b).outData = packLanes (s.block b) := by
  simp [State.emitBlock]
@[simp] theorem State.emitBlock_outCnt (s : State) (b : Byte) :
    (s.emitBlock b).outCnt = BitVec.ofNat 3 (s.block b).length := by simp [State.emitBlock]

theorem State.store_rem {s : State} (h1 : 1 ≤ s.rem) (hw : WidthInv s) (b : Byte) : (s.store b).rem = s.rem - 1 :=
  State.countUnit_rem_eq h1 hw

theorem State.store_fill {s : State} (h : s.fill.val < 3) (b : Byte) : (s.store b).fill.val = s.fill.val + 1 :=
  Fin.val_add_one_of_lt' (by omega)

theorem blockSize_le (d : Dir) : blockSize d ≤ 4 := by cases d <;> decide

end Sys2Proof.Machine
end

section
/-! Scope: the clock edges of a state of the invariants I1 to I7, told once for both directions (R148). -/

namespace Sys2Proof.Machine

/-- `OpEdge s u`: at an edge with `rst_n` = 1 a state `s` of the invariants becomes `u`, before the output handshake. It
is `EdgeOf` with the two directions told as one, and without the one-character tail, which `s` excludes (R36 I6). -/
inductive OpEdge (s : State) : State → Prop
  | respond (e : Status) (m : Nat) (rest : s.st = .idle) : OpEdge s (s.beginEdge.respond e m)
  | start (d : Dir) (n : Nat) (rest : s.st = .idle) (nonempty : n ≠ 0) (fits : n < 2 ^ s.cfg.lenW)
      (valid : d = .dec → n % 4 ≠ 1) : OpEdge s (s.beginEdge.start d n)
  | accept (u : Nat) (b : Byte) (run : s.st = .run) (ready : s.inReady = true) (taken : s.unitTaken = some u)
      (entry : entryOf s.dir u = some b) : OpEdge s (s.beginEdge.accept b)
  | invalid (u : Nat) (run : s.st = .run) (dec : s.dir = .dec) (taken : s.unitTaken = some u)
      (bad : classify u = none) :
      OpEdge s (s.beginEdge.raiseError .invalidCharacter).countUnit
  | drain (u : Nat) (drains : s.st = .drain) (taken : s.unitTaken = some u) :
      OpEdge s (s.beginEdge.countUnit.endIfLast (s.rem = 1))
  | finish (fin : s.st = .fin) (empty : s.outValid = false) : OpEdge s s.beginEdge.finish
  | wait (untaken : s.unitTaken = none) : OpEdge s s.beginEdge

/-- An edge that takes no beat takes no unit. -/
theorem State.unitTaken_of_takenInstr_none {s : State} (h : s.takenInstr = none) : s.unitTaken = none :=
  State.unitTaken_eq_none (State.takenInstr_none h).2

theorem step_of_resetDriven {s : State} (hr : s.resetDriven = true) : step s = .next s.resetEdge := by
  rcases step_cases s with ⟨-, h⟩ | ⟨h, -⟩ | ⟨h, -⟩
  · exact h
  all_goals simp [hr] at h

/-- Every next state of an edge with `rst_n` = 1, from a state of the invariants (R148). -/
theorem opEdge_of_step {s t : State} (hc : ControlInv s) (hr : s.resetDriven = false) (hs : step s = .next t) :
    ∃ u, OpEdge s u ∧ t = u.handOver s.outFires := by
  obtain ⟨-, -, -, hpartial, -, hclass, -⟩ := hc
  obtain ⟨u, hedge, rfl⟩ := edge_of_step hr hs
  refine ⟨u, ?_, rfl⟩
  generalize htaken : s.takenInstr = i at hedge
  cases hedge with
  | response i rest _ e m => exact .respond e m rest
  | startEnc n rest nonempty fits => exact .start .enc n rest nonempty fits (by simp)
  | startDec n rest nonempty valid fits => exact .start .dec n rest nonempty fits fun _ => valid
  | byte u run enc ready taken =>
    have hfill : s.fill.val ≤ 2 := by simpa [enc, blockSize] using (hpartial run).1
    rw [acceptByte_eq_accept (s := s.beginEdge) enc hfill]
    exact .accept u _ run ready taken (by rw [enc]; rfl)
  | invalid u run dec ready taken bad => exact .invalid u run dec taken bad
  | code u r t run dec ready taken valid accepted =>
    have htail : ¬(s.fill = 0 ∧ s.rem = 1) := fun ⟨h0, h1⟩ => hclass ⟨run, dec⟩ (by simp [h0, h1])
    rw [acceptCode_eq_accept (s := s.beginEdge) dec htail] at accepted
    cases accepted
    exact .accept u _ run ready taken (by simp [dec, entryOf, valid])
  | drain u drains taken => exact .drain u drains taken
  | finish fin empty => exact .finish fin empty
  | wait still => exact .wait (State.unitTaken_of_takenInstr_none htaken)

end Sys2Proof.Machine
end

section
/-! Scope: every edge keeps the invariants I1 to I7 and the registers' ranges (R36, R94). -/

namespace Sys2Proof.Machine

theorem controlInv_resetWith (p : Config.Params) (inputs : List Config.Inputs) (cycle : Nat) :
    ControlInv (State.resetWith p inputs cycle) := by
  simp [ControlInv, State.resetWith]

theorem widthInv_resetWith (p : Config.Params) (inputs : List Config.Inputs) (cycle : Nat) :
    WidthInv (State.resetWith p inputs cycle) := by
  simp [WidthInv, State.resetWith]

/-- I1 to I7 in IDLE. -/
theorem controlInv_idle_iff {s : State} (h : s.st = .idle) :
    ControlInv s ↔ s.rem = 0 ∧ s.fill = 0 ∧ s.outValid = false := by
  simp +contextual [ControlInv, InvRestEmpty, InvIdleNoBeat, InvBusyHasUnits, InvRunPartial, InvDrain, InvDecodeClass,
    InvBeatCount, h, and_assoc]

/-- I1 to I7 in RUN. -/
theorem controlInv_run_iff {s : State} (h : s.st = .run) :
    ControlInv s ↔ 1 ≤ s.rem ∧ s.fill.val ≤ blockSize s.dir - 1 ∧ s.stat = .ok ∧
      (s.dir = .dec → (s.fill.val + s.rem) % 4 ≠ 1) ∧ InvBeatCount s := by
  simp [ControlInv, InvRestEmpty, InvIdleNoBeat, InvBusyHasUnits, InvRunPartial, InvDrain, InvDecodeClass, h, and_assoc]

/-- I1 to I7 in DRAIN. -/
theorem controlInv_drain_iff {s : State} (h : s.st = .drain) :
    ControlInv s ↔ 1 ≤ s.rem ∧ s.dir = .dec ∧ s.fill = 0 ∧ s.stat = .invalidCharacter ∧ InvBeatCount s := by
  simp [ControlInv, InvRestEmpty, InvIdleNoBeat, InvBusyHasUnits, InvRunPartial, InvDrain, InvDecodeClass, h, and_assoc]

/-- I1 to I7 in FIN. -/
theorem controlInv_fin_iff {s : State} (h : s.st = .fin) :
    ControlInv s ↔ s.rem = 0 ∧ s.fill = 0 ∧ InvBeatCount s := by
  simp [ControlInv, InvRestEmpty, InvIdleNoBeat, InvBusyHasUnits, InvRunPartial, InvDrain, InvDecodeClass, h, and_assoc]

/-- The output handshake only empties the output register, which I2 and I7 allow. -/
theorem controlInv_handOver {s : State} (h : ControlInv s) (b : Bool) : ControlInv (s.handOver b) := by
  cases b
  · exact h
  · obtain ⟨hrest, -, hbusy, hpartial, hdrain, hclass, -⟩ := h
    exact ⟨hrest, fun _ => rfl, hbusy, hpartial, hdrain, hclass, nofun⟩

theorem widthInv_handOver {s : State} (h : WidthInv s) (b : Bool) : WidthInv (s.handOver b) := by
  simpa [WidthInv] using h

/-- The ranges of an emitted block's length (R36 I7). -/
theorem State.block_length_range {s : State} (b : Byte) (hc : ControlInv s) (hrun : s.st = .run)
    (hemit : s.emitNext = true) :
    (s.dir = .enc → 2 ≤ (s.block b).length ∧ (s.block b).length ≤ 4) ∧
    (s.dir = .dec → 1 ≤ (s.block b).length ∧ (s.block b).length ≤ 3) := by
  obtain ⟨-, -, -, hpartial, -, hclass, -⟩ := hc
  rw [State.block_length]
  refine ⟨fun hd => ?_, fun hd => ?_⟩
  · have := (hpartial hrun).1
    rw [hd, blockSize] at this
    rw [hd, outUnitCount, charsForEncode]
    omega
  · have hends := s.emitNext_iff.1 hemit
    have hmod := hclass ⟨hrun, hd⟩
    have hfill : 1 ≤ s.fill.val := by
      rw [hd, blockSize] at hends
      omega
    rw [hd, outUnitCount]
    omega

section

variable {s : State}

theorem controlInv_start (hc : ControlInv s) (hidle : s.st = .idle) {d : Dir} {n : Nat} (h0 : n ≠ 0)
    (hn : n < 2 ^ s.cfg.lenW) (hv : d = .dec → n % 4 ≠ 1) : ControlInv (s.start d n) := by
  obtain ⟨-, -, hempty⟩ := (controlInv_idle_iff hidle).1 hc
  refine (controlInv_run_iff rfl).2 ⟨?_, Nat.zero_le _, rfl, ?_, ?_⟩
  · rw [State.start_rem, narrow_eq_self hn]
    omega
  · simpa [narrow_eq_self hn] using hv
  · simp [InvBeatCount, hempty]

theorem controlInv_store (hc : ControlInv s) (hw : WidthInv s) (hrun : s.st = .run) (hemit : s.emitNext = false)
    (b : Byte) : ControlInv (s.store b) := by
  obtain ⟨hrem, hfill, hstat, hclass, hcount⟩ := (controlInv_run_iff hrun).1 hc
  obtain ⟨hroom, hmore⟩ := State.emitNext_eq_false_iff.1 hemit
  have hblk := blockSize_le s.dir
  have hfill' : (s.store b).fill.val = s.fill.val + 1 := State.store_fill (by omega) b
  refine (controlInv_run_iff (s := s.store b) hrun).2 ⟨?_, ?_, hstat, ?_, hcount⟩
  · rw [State.store_rem hrem hw]
    omega
  · rw [hfill']
    change s.fill.val + 1 ≤ blockSize s.dir - 1
    omega
  · rw [hfill', State.store_rem hrem hw]
    intro hd
    have := hclass hd
    omega

theorem controlInv_emitBlock (hc : ControlInv s) (hw : WidthInv s) (hrun : s.st = .run) (hemit : s.emitNext = true)
    (b : Byte) : ControlInv (s.emitBlock b) := by
  obtain ⟨hrem, -, hstat, hclass, -⟩ := (controlInv_run_iff hrun).1 hc
  have hbeat : InvBeatCount (s.emitBlock b) := by
    obtain ⟨henc, hdec⟩ := s.block_length_range b hc hrun hemit
    intro _
    rw [State.emitBlock_dir, State.emitBlock_outCnt]
    refine ⟨fun hd => ?_, fun hd => ?_⟩
    · obtain h | h | h : (s.block b).length = 2 ∨ (s.block b).length = 3 ∨ (s.block b).length = 4 := by
        have := henc hd
        omega
      all_goals simp [h]
    · obtain h | h | h : (s.block b).length = 1 ∨ (s.block b).length = 2 ∨ (s.block b).length = 3 := by
        have := hdec hd
        omega
      all_goals simp [h]
  by_cases hlast : s.rem = 1
  · refine (controlInv_fin_iff (by simp [State.emitBlock_st, hlast])).2 ⟨?_, State.emitBlock_fill s b, hbeat⟩
    rw [State.emitBlock_rem hrem hw, hlast]
  · refine (controlInv_run_iff (by simp [State.emitBlock_st, hlast, hrun])).2
      ⟨?_, by simp, by simpa using hstat, ?_, hbeat⟩
    · rw [State.emitBlock_rem hrem hw]
      omega
    · rw [State.emitBlock_rem hrem hw, State.emitBlock_fill, State.emitBlock_dir]
      intro hd
      have hmod := hclass hd
      have hfull : s.fill.val = 3 := by simpa [hlast, hd, blockSize] using s.emitNext_iff.1 hemit
      change (0 + (s.rem - 1)) % 4 ≠ 1
      omega

theorem controlInv_accept (hc : ControlInv s) (hw : WidthInv s) (hrun : s.st = .run) (b : Byte) :
    ControlInv (s.accept b) := by
  cases hemit : s.emitNext
  · rw [State.accept_of_not_emitNext hemit]
    exact controlInv_store hc hw hrun hemit b
  · rw [State.accept_of_emitNext hemit]
    exact controlInv_emitBlock hc hw hrun hemit b

/-- An invalid character drops the block and drains what is left of the stream (R127). -/
theorem controlInv_invalidCharacter (hc : ControlInv s) (hw : WidthInv s) (hrun : s.st = .run) (hdec : s.dir = .dec) :
    ControlInv (s.raiseError .invalidCharacter).countUnit := by
  obtain ⟨hrem, -, -, -, hcount⟩ := (controlInv_run_iff hrun).1 hc
  have hrem' : (s.raiseError .invalidCharacter).countUnit.rem = s.rem - 1 := State.countUnit_rem_eq hrem hw
  by_cases hlast : s.rem = 1
  · exact (controlInv_fin_iff (by simp [State.raiseError, hlast])).2 ⟨by rw [hrem', hlast], rfl, hcount⟩
  · exact (controlInv_drain_iff (by simp [State.raiseError, hlast])).2
      ⟨by rw [hrem']; omega, hdec, rfl, rfl, hcount⟩

/-- A drained unit is counted, and the last one ends the operation (R145). -/
theorem controlInv_drainUnit (hc : ControlInv s) (hw : WidthInv s) (hst : s.st = .drain) :
    ControlInv (s.countUnit.endIfLast (s.rem = 1)) := by
  obtain ⟨hrem, hdec, hfill, hstat, hcount⟩ := (controlInv_drain_iff hst).1 hc
  have hrem' : s.countUnit.rem = s.rem - 1 := State.countUnit_rem_eq hrem hw
  by_cases hlast : s.rem = 1
  · rw [decide_eq_true hlast]
    exact (controlInv_fin_iff rfl).2 ⟨hrem'.trans (by rw [hlast]), hfill, hcount⟩
  · rw [decide_eq_false hlast]
    exact (controlInv_drain_iff (s := s.countUnit) hst).2 ⟨by omega, hdec, hfill, hstat, hcount⟩

theorem controlInv_finish (hc : ControlInv s) (hfin : s.st = .fin) (hempty : s.outValid = false) :
    ControlInv s.finish := by
  obtain ⟨hrem, hfill, -⟩ := (controlInv_fin_iff hfin).1 hc
  exact (controlInv_idle_iff rfl).2 ⟨hrem, hfill, hempty⟩

/-- I1 to I7 along an edge, rule by rule (R36). -/
theorem controlInv_opEdge {u : State} (hc : ControlInv s) (hw : WidthInv s) (h : OpEdge s u) : ControlInv u := by
  have hc' : ControlInv s.beginEdge := hc
  cases h with
  | respond e m rest => exact hc
  | start d n rest nonempty fits valid => exact controlInv_start hc' rest nonempty fits valid
  | accept u b run ready taken entry => exact controlInv_accept hc' hw run b
  | invalid u run dec taken bad => exact controlInv_invalidCharacter hc' hw run dec
  | drain u drains taken => exact controlInv_drainUnit hc' hw drains
  | finish fin empty => exact controlInv_finish hc' fin empty
  | wait untaken => exact hc

theorem widthInv_store (hw : WidthInv s) (b : Byte) : WidthInv (s.store b) := ⟨narrow_lt _ _, hw.2⟩

theorem widthInv_emitBlock (hw : WidthInv s) (b : Byte) : WidthInv (s.emitBlock b) := by
  simpa [State.emitBlock, WidthInv] using ⟨narrow_lt _ _, narrow_lt _ _, hw.2.2⟩

theorem widthInv_drainUnit (hw : WidthInv s) : WidthInv (s.countUnit.endIfLast (s.rem = 1)) := by
  simpa [WidthInv] using ⟨narrow_lt _ _, hw.2⟩

/-- A step writes `rem`, `produced` and `rsp_len` through a narrowing alone (R12). -/
theorem widthInv_opEdge {u : State} (hw : WidthInv s) (h : OpEdge s u) : WidthInv u := by
  have ⟨hrem, hproduced, hlen⟩ := hw
  cases h with
  | respond e m rest => exact ⟨hrem, hproduced, narrow_lt _ _⟩
  | start d n rest nonempty fits valid => exact ⟨narrow_lt _ _, Nat.two_pow_pos _, hlen⟩
  | accept u b run ready taken entry =>
    cases hemit : s.beginEdge.emitNext
    · rw [State.accept_of_not_emitNext hemit]
      exact widthInv_store (s := s.beginEdge) hw b
    · rw [State.accept_of_emitNext hemit]
      exact widthInv_emitBlock (s := s.beginEdge) hw b
  | invalid u run dec taken bad => exact ⟨narrow_lt _ _, hproduced, hlen⟩
  | drain u drains taken => exact widthInv_drainUnit (s := s.beginEdge) hw
  | finish fin empty => exact ⟨hrem, hproduced, narrow_lt _ _⟩
  | wait untaken => exact ⟨hrem, hproduced, hlen⟩

end

/-- Settles O44: each edge of `OpEdge` keeps the invariants, and so do the reset and the output handshake. -/
theorem controlInvariantIsKept : Obligations.ControlInvariantIsKept := by
  intro s t hc hw hs
  cases hr : s.resetDriven
  · obtain ⟨u, hedge, rfl⟩ := opEdge_of_step hc hr hs
    exact ⟨controlInv_handOver (controlInv_opEdge hc hw hedge) _, widthInv_handOver (widthInv_opEdge hw hedge) _⟩
  · rw [step_of_resetDriven hr] at hs
    cases hs
    exact ⟨controlInv_resetWith _ _ _, widthInv_resetWith _ _ _⟩

end Sys2Proof.Machine
end

section
/-! Scope: what the registers hold, the lanes of a beat and the FIFO's live entries (R26, R29, R107). -/

namespace Sys2Proof.Machine

/-! ### The lanes of a beat (R44, R143) -/

theorem lane_packLanes_zero (u : Byte) (us : List Byte) : lane (packLanes (u :: us)) 0 = u := by
  apply BitVec.eq_of_getLsbD_eq
  intro j hj
  simp [lane, packLanes, hj]
  omega

theorem lane_packLanes_succ (u : Byte) (us : List Byte) {i : Nat} (hi : i + 1 < 4) :
    lane (packLanes (u :: us)) (i + 1) = lane (packLanes us) i := by
  apply BitVec.eq_of_getLsbD_eq
  intro j hj
  have hu : u.getLsbD (8 * (i + 1) + j) = false := BitVec.getLsbD_of_ge _ _ (by omega)
  have hsub : 8 * (i + 1) + j - 8 = 8 * i + j := by omega
  simp [lane, packLanes, hj, hu, hsub]
  omega

/-- Lane `i` of a packed beat is its unit `i`, and a lane it does not use is 0 (R44, R143). -/
theorem lane_packLanes (us : List Byte) {i : Nat} (hi : i < 4) : lane (packLanes us) i = us.getD i 0 := by
  induction us generalizing i with
  | nil => simp [packLanes, lane]
  | cons u us ih =>
    cases i with
    | zero => exact lane_packLanes_zero u us
    | succ i => rw [lane_packLanes_succ u us hi, ih (by omega), List.getD_cons_succ]

/-- A beat of at most four units reads back from the output register (R43, R44). -/
theorem outUnits_of_packLanes {s : State} {us : List Byte} (hlen : us.length ≤ 4) (hd : s.outData = packLanes us)
    (hc : s.outCnt = BitVec.ofNat 3 us.length) : s.outUnits = us := by
  have hcnt : s.outCnt.toNat = us.length := by
    rw [hc, BitVec.toNat_ofNat]
    omega
  apply List.ext_getElem
  · simp [State.outUnits, hcnt]
  · intro i hi hi'
    simp [State.outUnits, hd, lane_packLanes us (show i < 4 by omega), hi']

/-! ### The carry-over FIFO (R26) -/

theorem Carry.get_put (c : Carry) (i j : Fin 4) (b : Byte) : (c.put i b).get j = if j = i then b else c.get j := by
  fin_cases i <;> fin_cases j <;> rfl

/-- The live entries after a unit is stored: the ones before it, and the unit's own. -/
theorem State.store_get {s : State} (hfill : s.fill.val < 3) (b : Byte) {i : Fin 4} (hi : i < (s.store b).fill) :
    i < s.fill ∧ (s.store b).carry.get i = s.carry.get i ∨ i = s.fill ∧ (s.store b).carry.get i = b := by
  have hlt : i.val < s.fill.val + 1 := by
    have := State.store_fill hfill b
    omega
  have hget : (s.store b).carry.get i = if i = s.fill then b else s.carry.get i := Carry.get_put _ _ _ _
  rw [hget]
  by_cases h : i = s.fill
  · exact .inr ⟨h, if_pos h⟩
  · exact .inl ⟨by omega, if_neg h⟩

/-- A block that is not complete leaves a free entry. -/
theorem fill_lt_of_not_emitNext {s : State} (hc : ControlInv s) (hrun : s.st = .run) (hemit : s.emitNext = false) :
    s.fill.val < 3 := by
  obtain ⟨-, hfill, -⟩ := (controlInv_run_iff hrun).1 hc
  have hroom := (State.emitNext_eq_false_iff.1 hemit).1
  have hblk := blockSize_le s.dir
  omega

/-- The entry of a valid character is a zero-extended 6-bit code (R127). -/
theorem entryOf_dec_lt {u : Nat} {b : Byte} (h : entryOf .dec u = some b) : b.toNat < 64 := by
  obtain ⟨r, -, rfl⟩ := Option.map_eq_some_iff.1 h
  rw [BitVec.toNat_setWidth, Nat.mod_eq_of_lt (by omega)]
  exact r.isLt

/-- An emitted block fits the output register (R36 I7). -/
theorem State.block_length_le {s : State} (b : Byte) (hc : ControlInv s) (hrun : s.st = .run)
    (hemit : s.emitNext = true) : (s.block b).length ≤ 4 := by
  obtain ⟨henc, hdec⟩ := s.block_length_range b hc hrun hemit
  cases hd : s.dir
  · exact (henc hd).2
  · exact (hdec hd).2.trans (by decide)

/-! ### The data invariants at an edge -/

section

variable {s u : State}

/-- A beat that no rule touches stays as it is; only an emission writes one, into the lanes it uses (R29, R143). -/
theorem unusedLanesZero_opEdge (hc : ControlInv s) (h : OpEdge s u) (hz : UnusedLanesZero s) : UnusedLanesZero u := by
  cases h with
  | accept x b run ready taken entry =>
    cases hemit : s.beginEdge.emitNext
    · rw [State.accept_of_not_emitNext hemit]
      exact hz
    · rw [State.accept_of_emitNext hemit]
      have hlen := State.block_length_le (s := s.beginEdge) b hc run hemit
      intro _ i hi
      rw [State.emitBlock_outCnt, BitVec.toNat_ofNat, Nat.mod_eq_of_lt (by omega)] at hi
      rw [State.emitBlock_outData, lane_packLanes _ i.isLt, List.getD_eq_default _ _ hi]
  | drain x drains taken => simpa [UnusedLanesZero] using hz
  | respond | start | invalid | finish | wait => exact hz

/-- An encode emission is made of `EncMap` values alone (R107). -/
theorem beatInAlphabet_opEdge (hc : ControlInv s) (h : OpEdge s u) (ha : BeatInAlphabet s) : BeatInAlphabet u := by
  cases h with
  | accept x b run ready taken entry =>
    cases hemit : s.beginEdge.emitNext
    · rw [State.accept_of_not_emitNext hemit]
      exact ha
    · rw [State.accept_of_emitNext hemit]
      have hlen := State.block_length_le (s := s.beginEdge) b hc run hemit
      rintro ⟨-, hd⟩ c hmem
      rw [outUnits_of_packLanes hlen (State.emitBlock_outData _ b) (State.emitBlock_outCnt _ b)] at hmem
      rw [State.emitBlock_dir] at hd
      rw [State.block, hd] at hmem
      exact mem_encodeBytes hmem
  | start d n rest nonempty fits valid =>
    rintro ⟨hv, -⟩
    have hempty : s.outValid = false := ((controlInv_idle_iff rest).1 hc).2.2
    simp [hempty] at hv
  | drain x drains taken => simpa [BeatInAlphabet, State.outUnits] using ha
  | respond | invalid | finish | wait => exact ha

/-- An entry written in a decode operation is a code, and a block starts with no live entry (R26, R127). -/
theorem liveEntriesAreCodes_opEdge (hc : ControlInv s) (h : OpEdge s u) (hl : LiveEntriesAreCodes s) :
    LiveEntriesAreCodes u := by
  cases h with
  | accept x b run ready taken entry =>
    cases hemit : s.beginEdge.emitNext
    · rw [State.accept_of_not_emitNext hemit]
      rintro ⟨-, hd⟩ i hi
      replace hd : s.dir = .dec := hd
      have hfill := fill_lt_of_not_emitNext (s := s.beginEdge) hc run hemit
      rcases State.store_get hfill b hi with ⟨hlive, hget⟩ | ⟨-, hget⟩
      · rw [hget]
        exact hl ⟨run, hd⟩ i hlive
      · rw [hget]
        rw [hd] at entry
        exact entryOf_dec_lt entry
    · rw [State.accept_of_emitNext hemit]
      intro _ i hi
      simp at hi
  | start d n rest nonempty fits valid =>
    intro _ i hi
    simp at hi
  | invalid x run dec taken bad =>
    intro _ i hi
    simp [State.raiseError] at hi
  | drain x drains taken =>
    rintro ⟨hst, -⟩
    cases hlast : decide (s.rem = 1) <;> simp [hlast, drains] at hst
  | finish fin empty =>
    rintro ⟨hst, -⟩
    simp at hst
  | respond | wait => exact hl

theorem dataInv_resetWith (p : Config.Params) (inputs : List Config.Inputs) (cycle : Nat) :
    DataInv (State.resetWith p inputs cycle) := by
  refine ⟨widthInv_resetWith p inputs cycle, ?_, ?_, ?_⟩ <;>
    simp [UnusedLanesZero, BeatInAlphabet, LiveEntriesAreCodes, State.resetWith]

/-- The output handshake writes `out_valid` alone, and only to 0. -/
theorem dataInv_handOver (h : DataInv s) (b : Bool) : DataInv (s.handOver b) := by
  cases b
  · exact h
  · obtain ⟨hw, -, -, hl⟩ := h
    exact ⟨hw, by simp [UnusedLanesZero], by simp [BeatInAlphabet], hl⟩

end

/-- Settles O45: each edge of `OpEdge` keeps what the registers hold, and so do the reset and the output handshake. -/
theorem dataInvariantIsKept : Obligations.DataInvariantIsKept := by
  intro s t hc ⟨hw, hz, ha, hl⟩ hs
  cases hr : s.resetDriven
  · obtain ⟨u, hedge, rfl⟩ := opEdge_of_step hc hr hs
    exact dataInv_handOver ⟨widthInv_opEdge hw hedge, unusedLanesZero_opEdge hc hedge hz,
      beatInAlphabet_opEdge hc hedge ha, liveEntriesAreCodes_opEdge hc hedge hl⟩ _
  · rw [step_of_resetDriven hr] at hs
    cases hs
    exact dataInv_resetWith _ _ _

end Sys2Proof.Machine
end

section
/-! Scope: stale FIFO entries (R26, R38). A step from the state with its stale entries cleared differs from the step of
the state itself in stale entries alone; two states that clear to the same image then agree. -/

namespace Sys2Proof.Machine

/-! ### Clearing the stale entries, operation by operation -/

theorem State.forgetStale_forgetStale (s : State) : s.forgetStale.forgetStale = s.forgetStale := by
  simp +contextual [State.forgetStale]

theorem State.forgetStale_get {s : State} {i : Fin 4} (h : i < s.fill) :
    s.forgetStale.carry.get i = s.carry.get i := by
  match i with
  | 0 | 1 | 2 => exact if_pos h
  | 3 => omega

theorem State.forgetStale_code {s : State} {i : Fin 4} (h : i < s.fill) :
    s.forgetStale.carry.code i = s.carry.code i := by
  rw [Carry.code, Carry.code, State.forgetStale_get h]

theorem State.forgetStale_handOver (s : State) (b : Bool) : s.forgetStale.handOver b = (s.handOver b).forgetStale := by
  cases b <;> rfl

theorem State.forgetStale_endIfLast (s : State) (l : Bool) :
    s.forgetStale.endIfLast l = (s.endIfLast l).forgetStale := by
  cases l <;> rfl

theorem State.forgetStale_finStep (s : State) : s.forgetStale.finStep = s.finStep.forgetStale := by
  have hfires : s.forgetStale.finFires = s.finFires := rfl
  simp only [State.finStep, hfires]
  split <;> rfl

/-- After an emission no entry is live. -/
theorem State.forgetStale_emission (s : State) (k : Fin 4) (b : Byte) (us : List Byte) (l : Bool) :
    ((((s.forgetStale.writeCarry k b).countUnit.emit us).setFill 0).endIfLast l).forgetStale =
      ((((s.writeCarry k b).countUnit.emit us).setFill 0).endIfLast l).forgetStale := by
  cases l <;> rfl

/-- A stored unit becomes live, and the entries before it stay. -/
theorem State.forgetStale_store (s : State) (b : Byte) :
    (s.forgetStale.store b).forgetStale = (s.store b).forgetStale := by
  obtain ⟨_, _, _, _, fill, _⟩ := s
  match fill with
  | 0 | 1 | 2 | 3 => rfl

/-! ### The transactions -/

theorem acceptByte_forgetStale (b : Byte) (s : State) :
    (acceptByte b s.forgetStale).forgetStale = (acceptByte b s).forgetStale := by
  have hf : s.forgetStale.fill = s.fill := rfl
  have hr : s.forgetStale.rem = s.rem := rfl
  simp only [acceptByte, hf, hr]
  split
  · rename_i h2
    rw [State.forgetStale_get (by omega), State.forgetStale_get (by omega), State.forgetStale_emission]
  · split
    · split
      · exact State.forgetStale_emission ..
      · rename_i h0
        rw [State.forgetStale_get (by omega), State.forgetStale_emission]
    · exact s.forgetStale_store b

/-- Two outcomes that differ in stale entries of a next state alone. -/
def SameButStale (o o' : Host.Outcome State Fault Refusal) : Prop := forgetStaleNext o = forgetStaleNext o'

theorem sameButStale_next {s t : State} (h : s.forgetStale = t.forgetStale) : SameButStale (.next s) (.next t) :=
  congrArg Host.Outcome.next h

theorem acceptCode_forgetStale (r : Code) (s : State) :
    SameButStale (acceptCode r s.forgetStale) (acceptCode r s) := by
  have hf : s.forgetStale.fill = s.fill := rfl
  have hr : s.forgetStale.rem = s.rem := rfl
  simp only [acceptCode, hf, hr]
  split
  · rename_i h3
    rw [State.forgetStale_code (by omega), State.forgetStale_code (by omega), State.forgetStale_code (by omega)]
    exact sameButStale_next (State.forgetStale_emission ..)
  · split
    · split
      · rw [State.forgetStale_code (by omega), State.forgetStale_code (by omega)]
        exact sameButStale_next (State.forgetStale_emission ..)
      · split
        · rw [State.forgetStale_code (by omega)]
          exact sameButStale_next (State.forgetStale_emission ..)
        · rfl
    · exact sameButStale_next (s.forgetStale_store _)

/-- An effect under a guard that reads no FIFO entry, and no effect where the transaction waits. -/
theorem sameButStale_ite {guard : Prop} [Decidable guard] {s : State} {o o' : Host.Outcome State Fault Refusal}
    (h : SameButStale o o') :
    SameButStale (if guard then o else .next s.forgetStale) (if guard then o' else .next s) := by
  split
  · exact h
  · exact sameButStale_next s.forgetStale_forgetStale

theorem onCommand_forgetStale {s effect effect' : State} (h : effect'.forgetStale = effect.forgetStale) :
    SameButStale (onCommand s.forgetStale effect') (onCommand s effect) :=
  sameButStale_ite (guard := s.cmdReady = true) (sameButStale_next h)

theorem State.forgetStale_respond (s : State) (e : Status) (m : Nat) :
    (s.forgetStale.respond e m).forgetStale = (s.respond e m).forgetStale :=
  (s.respond e m).forgetStale_forgetStale

theorem exec_forgetStale (i : Instr) (s : State) : SameButStale (exec i s.forgetStale) (exec i s) := by
  cases i with
  | lenEnc n => exact onCommand_forgetStale (s.forgetStale_respond _ _)
  | lenDec n =>
    apply onCommand_forgetStale
    cases bytesForDecode n <;> exact s.forgetStale_respond _ _
  | enc n =>
    apply onCommand_forgetStale
    split
    · exact s.forgetStale_respond _ _
    · rfl
  | dec n =>
    apply onCommand_forgetStale
    split
    · exact s.forgetStale_respond _ _
    · split
      · exact s.forgetStale_respond _ _
      · rfl
  | reserved000 | reserved101 | reserved110 | reserved111 =>
    exact onCommand_forgetStale (s.forgetStale_respond _ _)
  | inEnc u =>
    exact sameButStale_ite (guard := s.st = .run ∧ s.dir = .enc ∧ s.inReady = true)
      (sameButStale_next (acceptByte_forgetStale _ s))
  | inDec u =>
    refine sameButStale_ite (guard := s.st = .run ∧ s.dir = .dec ∧ s.inReady = true) ?_
    cases classify u with
    | none => exact sameButStale_next rfl
    | some r => exact acceptCode_forgetStale r s
  | inDrain u =>
    refine sameButStale_ite (guard := s.st = .drain ∧ s.inReady = true) (sameButStale_next ?_)
    exact (congrArg State.forgetStale (s.countUnit.forgetStale_endIfLast _)).trans (State.forgetStale_forgetStale _)

/-! ### The step -/

theorem forgetStaleNext_afterEdge (b : Bool) (o : Host.Outcome State Fault Refusal) :
    forgetStaleNext (afterEdge b o) = afterEdge b (forgetStaleNext o) := by
  cases o with
  | next t => exact congrArg Host.Outcome.next (t.forgetStale_handOver b).symm
  | fault r => rfl
  | refused r => rfl

theorem sameButStale_afterEdge {o o' : Host.Outcome State Fault Refusal} (h : SameButStale o o') (b : Bool) :
    SameButStale (afterEdge b o) (afterEdge b o') := by
  rw [SameButStale, forgetStaleNext_afterEdge, forgetStaleNext_afterEdge, h]

theorem step_of_takenInstr_some {s : State} {i : Instr} (hr : s.resetDriven = false) (ht : s.takenInstr = some i) :
    step s = afterEdge s.outFires (exec i s.beginEdge) := by
  rcases step_cases s with ⟨hreset, -⟩ | ⟨-, j, hj, hstep⟩ | ⟨-, hnone, -⟩
  · simp [hr] at hreset
  · rw [ht] at hj
    cases hj
    exact hstep
  · simp [ht] at hnone

theorem step_forgetStale (s : State) : SameButStale (step s.forgetStale) (step s) := by
  cases hr : s.resetDriven
  · cases ht : s.takenInstr with
    | none =>
      rw [step_of_takenInstr_none hr ht, step_of_takenInstr_none (s := s.forgetStale) hr ht]
      apply sameButStale_next
      change ((s.beginEdge.forgetStale.finStep).handOver s.outFires).forgetStale = _
      rw [State.forgetStale_finStep, State.forgetStale_handOver, State.forgetStale_forgetStale]
    | some i =>
      rw [step_of_takenInstr_some hr ht, step_of_takenInstr_some (s := s.forgetStale) hr ht]
      exact sameButStale_afterEdge (exec_forgetStale i s.beginEdge) _
  · rw [step_of_resetDriven hr, step_of_resetDriven (s := s.forgetStale) hr]
    rfl

/-- Settles O47: both steps differ in stale entries alone from the step of the image, and the output ports read no
FIFO entry. -/
theorem staleEntriesAreUnobservable : Obligations.StaleEntriesAreUnobservable := by
  intro s t h
  constructor
  · calc forgetStaleNext (step s)
        = forgetStaleNext (step s.forgetStale) := (step_forgetStale s).symm
      _ = forgetStaleNext (step t.forgetStale) := by rw [h]
      _ = forgetStaleNext (step t) := step_forgetStale t
  · calc s.outputs
        = s.forgetStale.outputs := rfl
      _ = t.forgetStale.outputs := by rw [h]
      _ = t.outputs := rfl

end Sys2Proof.Machine
end

section
/-! Scope: the accounting of an operation in progress, for both directions at once (R37): an invariant of the quiet cycles
of an operation that speaks of the units taken so far. -/

namespace Sys2Proof.Machine

/-! ### Output units of whole blocks (R90, R91, R94) -/

theorem outUnitCount_add {d : Dir} {m : Nat} (h : blockSize d ∣ m) (k : Nat) :
    outUnitCount d (m + k) = outUnitCount d m + outUnitCount d k := by
  obtain ⟨q, rfl⟩ := h
  cases d <;> simp only [blockSize, outUnitCount, charsForEncode] <;> omega

theorem outUnitCount_lt {d : Dir} {n m w : Nat} (h : m ≤ n) (hn : n < 2 ^ w) : outUnitCount d m < 2 ^ (w + 1) := by
  rw [pow_succ]
  cases d <;> simp only [outUnitCount, charsForEncode] <;> omega

/-! ### The live entries of the FIFO (R26) -/

theorem State.live_store {s : State} (h : s.fill.val < 3) (b : Byte) : (s.store b).live = s.live ++ [b] := by
  obtain ⟨_, _, _, _, fill, _⟩ := s
  match fill with
  | 0 | 1 | 2 => rfl
  | 3 => exact absurd h (Nat.lt_irrefl 3)

theorem State.live_of_fill_zero {s : State} (h : s.fill = 0) : s.live = [] := by simp [State.live, h]

theorem State.live_getElem? {s : State} {i : Fin 4} (h : i < s.fill) : s.live[i.val]? = some (s.carry.get i) := by
  rw [State.live, List.getElem?_take_of_lt h]
  match i with
  | 0 | 1 | 2 => rfl
  | 3 => omega

/-! ### The invariant -/

/-- R37 of a block in progress: the units taken are `whole`, whole blocks that `produced` accounts for, and `part`, the
units of the current block, whose entries are the live ones of the FIFO. -/
structure BlockAccounts (s : State) (whole part : List Nat) : Prop where
  blocks : blockSize s.dir ∣ whole.length
  entries : part.map (entryOf s.dir) = s.live.map some
  produced : s.produced = outUnitCount s.dir whole.length

/-- An operation of `n` units in direction `d`, of which `us` are taken, from its start until its response (R37). -/
structure OpAccounts (d : Dir) (n : Nat) (us : List Nat) (s : State) : Prop where
  dir : s.dir = d
  control : ControlInv s
  width : WidthInv s
  busy : s.st ≠ .idle
  fits : n < 2 ^ s.cfg.lenW
  counted : us.length + s.rem = n
  encodeOk : s.dir = .enc → s.stat = .ok
  running : s.st = .run → ∃ whole part, us = whole ++ part ∧ BlockAccounts s whole part
  finished : s.st = .fin → s.stat = .ok → s.produced = outUnitCount s.dir n

theorem BlockAccounts.part_length {s : State} {whole part : List Nat} (h : BlockAccounts s whole part) :
    part.length = s.fill.val := by
  simpa [State.live_length] using congrArg List.length h.entries

/-- The unit that completes a block makes it whole, and its emission accounts for it (R105, R127). -/
theorem BlockAccounts.emitBlock_produced {s : State} {whole part : List Nat} (h : BlockAccounts s whole part) {n : Nat}
    (hn : n < 2 ^ s.cfg.lenW) (hle : (whole ++ part).length + 1 ≤ n) (b : Byte) :
    (s.emitBlock b).produced = outUnitCount s.dir ((whole ++ part).length + 1) := by
  have hsum : s.produced + (s.block b).length = outUnitCount s.dir ((whole ++ part).length + 1) := by
    rw [h.produced, State.block_length, ← h.part_length, ← outUnitCount_add h.blocks, List.length_append,
      Nat.add_assoc]
  rw [State.emitBlock_produced, hsum, narrow_eq_self (outUnitCount_lt hle hn)]

/-- A unit that leaves the block incomplete is the next of its entries. -/
theorem BlockAccounts.store {s : State} {whole part : List Nat} (h : BlockAccounts s whole part)
    (hfree : s.fill.val < 3) {x : Nat} {b : Byte} (hb : entryOf s.dir x = some b) :
    BlockAccounts (s.store b) whole (part ++ [x]) where
  blocks := h.blocks
  entries := by
    have hentry : [x].map (entryOf s.dir) = [b].map some := congrArg (fun e => [e]) hb
    rw [State.live_store hfree, List.map_append, List.map_append, ← h.entries, ← hentry]
    rfl
  produced := h.produced

/-- The unit that fills the block makes it whole, and leaves no entry (R105, R127). -/
theorem BlockAccounts.emitBlock {s : State} {whole part : List Nat} (h : BlockAccounts s whole part)
    (hfull : s.fill.val = blockSize s.dir - 1) (x : Nat) {b : Byte}
    (hproduced : (s.emitBlock b).produced = outUnitCount s.dir ((whole ++ part).length + 1)) :
    BlockAccounts (s.emitBlock b) (whole ++ part ++ [x]) [] where
  blocks := by
    have hpos : 1 ≤ blockSize s.dir := by cases s.dir <;> decide
    have hlen : (whole ++ part ++ [x]).length = whole.length + blockSize s.dir := by
      simp only [List.length_append, List.length_singleton, h.part_length]
      omega
    rw [State.emitBlock_dir, hlen]
    exact (Nat.dvd_add_left (Nat.dvd_refl _)).2 h.blocks
  entries := by
    rw [State.live_of_fill_zero (State.emitBlock_fill s b)]
    rfl
  produced := by rw [hproduced, State.emitBlock_dir, List.length_append (bs := [x]), List.length_singleton]

variable {s : State} {d : Dir} {n : Nat} {us : List Nat}

/-- One unit more is taken and one less is to come. -/
theorem OpAccounts.counted_snoc (h : OpAccounts d n us s) (hrem : 1 ≤ s.rem) (x : Nat) :
    (us ++ [x]).length + (s.rem - 1) = n := by
  have hcounted := h.counted
  rw [List.length_append, List.length_singleton]
  omega

theorem OpAccounts.start (hc : ControlInv s) (hw : WidthInv s) (hidle : s.st = .idle) (h0 : n ≠ 0)
    (hn : n < 2 ^ s.cfg.lenW) (hv : d = .dec → n % 4 ≠ 1) : OpAccounts d n [] (s.start d n) where
  dir := rfl
  control := controlInv_start hc hidle h0 hn hv
  width := ⟨narrow_lt _ _, Nat.two_pow_pos _, hw.2.2⟩
  busy := by simp
  fits := hn
  counted := by simp [narrow_eq_self hn]
  encodeOk _ := rfl
  running _ := ⟨[], [], rfl, ⟨Nat.dvd_zero _ , by rw [State.live_of_fill_zero rfl]; rfl, by cases d <;> rfl⟩⟩
  finished h := by simp at h

theorem OpAccounts.store (h : OpAccounts d n us s) (hrun : s.st = .run) (hemit : s.emitNext = false) {x : Nat}
    {b : Byte} (hb : entryOf s.dir x = some b) : OpAccounts d n (us ++ [x]) (s.store b) := by
  obtain ⟨hrem, -⟩ := (controlInv_run_iff hrun).1 h.control
  have hfree := fill_lt_of_not_emitNext h.control hrun hemit
  exact {
    dir := h.dir
    control := controlInv_store h.control h.width hrun hemit b
    width := widthInv_store h.width b
    busy := h.busy
    fits := h.fits
    counted := by rw [State.store_rem hrem h.width, h.counted_snoc hrem]
    encodeOk := h.encodeOk
    running := fun _ =>
      have ⟨whole, part, hus, hblock⟩ := h.running hrun
      ⟨whole, part ++ [x], by rw [hus, List.append_assoc], hblock.store hfree hb⟩
    finished := fun hfin => absurd (hrun.symm.trans hfin) (by decide) }

/-- The unit that completes the block, or ends the stream in it, is accounted for by the emission. -/
theorem OpAccounts.emitBlock (h : OpAccounts d n us s) (hrun : s.st = .run) (hemit : s.emitNext = true) (x : Nat)
    (b : Byte) : OpAccounts d n (us ++ [x]) (s.emitBlock b) := by
  obtain ⟨hrem, -⟩ := (controlInv_run_iff hrun).1 h.control
  obtain ⟨whole, part, rfl, hblock⟩ := h.running hrun
  have hcounted := h.counted
  have hproduced := hblock.emitBlock_produced h.fits (by omega) b
  have hst : (s.emitBlock b).st = if s.rem = 1 then .fin else .run := by rw [State.emitBlock_st, hrun]
  exact {
    dir := by rw [State.emitBlock_dir, h.dir]
    control := controlInv_emitBlock h.control h.width hrun hemit b
    width := widthInv_emitBlock h.width b
    busy := by rw [hst]; split <;> decide
    fits := by rw [State.emitBlock_cfg]; exact h.fits
    counted := by rw [State.emitBlock_rem hrem h.width, h.counted_snoc hrem]
    encodeOk := by rw [State.emitBlock_dir, State.emitBlock_stat]; exact h.encodeOk
    running := fun hrun' => by
      have hmore : s.rem ≠ 1 := fun hlast => by simp [hst, hlast] at hrun'
      have hfull := (s.emitNext_iff.1 hemit).resolve_right hmore
      exact ⟨_, [], (List.append_nil _).symm, hblock.emitBlock hfull x hproduced⟩
    finished := fun hfin _ => by
      have hlast : s.rem = 1 := by
        by_contra hmore
        simp [hst, hmore] at hfin
      rw [hproduced, State.emitBlock_dir, ← hcounted, hlast] }

theorem OpAccounts.accept (h : OpAccounts d n us s) (hrun : s.st = .run) {x : Nat} {b : Byte}
    (hb : entryOf s.dir x = some b) : OpAccounts d n (us ++ [x]) (s.accept b) := by
  cases hemit : s.emitNext
  · rw [State.accept_of_not_emitNext hemit]
    exact h.store hrun hemit hb
  · rw [State.accept_of_emitNext hemit]
    exact h.emitBlock hrun hemit x b

/-- After an invalid character no result is claimed, and only the units are counted. -/
theorem OpAccounts.invalidCharacter (h : OpAccounts d n us s) (hrun : s.st = .run) (hdec : s.dir = .dec) (x : Nat) :
    OpAccounts d n (us ++ [x]) (s.raiseError .invalidCharacter).countUnit := by
  obtain ⟨hrem, -⟩ := (controlInv_run_iff hrun).1 h.control
  have hrem' : (s.raiseError .invalidCharacter).countUnit.rem = s.rem - 1 := State.countUnit_rem_eq hrem h.width
  have hst : (s.raiseError .invalidCharacter).countUnit.st = if s.rem = 1 then .fin else .drain := rfl
  exact {
    dir := h.dir
    control := controlInv_invalidCharacter h.control h.width hrun hdec
    width := ⟨narrow_lt _ _, h.width.2⟩
    busy := by rw [hst]; split <;> decide
    fits := h.fits
    counted := by rw [hrem', h.counted_snoc hrem]
    encodeOk := fun henc => absurd (hdec.symm.trans henc) (by decide)
    running := fun hrun' => by rw [hst] at hrun'; split at hrun' <;> cases hrun'
    finished := fun _ hok => nomatch (hok : Status.invalidCharacter = .ok) }

theorem OpAccounts.drainUnit (h : OpAccounts d n us s) (hdrain : s.st = .drain) (x : Nat) :
    OpAccounts d n (us ++ [x]) (s.countUnit.endIfLast (s.rem = 1)) := by
  obtain ⟨hrem, hdec, -, hstat, -⟩ := (controlInv_drain_iff hdrain).1 h.control
  have hst : (s.countUnit.endIfLast (s.rem = 1)).st = if s.rem = 1 then .fin else .drain := by simp [hdrain]
  exact {
    dir := by rw [State.endIfLast_dir]; exact h.dir
    control := controlInv_drainUnit h.control h.width hdrain
    width := widthInv_drainUnit h.width
    busy := by rw [hst]; split <;> decide
    fits := by rw [State.endIfLast_cfg]; exact h.fits
    counted := by rw [State.endIfLast_rem, State.countUnit_rem_eq hrem h.width, h.counted_snoc hrem]
    encodeOk := fun henc => by simp [hdec] at henc
    running := fun hrun => by rw [hst] at hrun; split at hrun <;> cases hrun
    finished := fun _ hok => by simp [hstat] at hok }

/-- The accounting speaks of no register that the start of an edge writes. -/
theorem OpAccounts.beginEdge (h : OpAccounts d n us s) : OpAccounts d n us s.beginEdge :=
  { h with
    running := fun hst =>
      have ⟨whole, part, hus, hblock⟩ := h.running hst
      ⟨whole, part, hus, hblock.blocks, hblock.entries, hblock.produced⟩ }

theorem OpAccounts.handOver (h : OpAccounts d n us s) (b : Bool) : OpAccounts d n us (s.handOver b) := by
  cases b
  · exact h
  · exact { h with
      control := controlInv_handOver h.control true
      running := fun hst =>
        have ⟨whole, part, hus, hblock⟩ := h.running hst
        ⟨whole, part, hus, hblock.blocks, hblock.entries, hblock.produced⟩ }

/-- An edge that gives no response keeps the accounting, with the unit it takes (R37). -/
theorem OpAccounts.opEdge {u : State} (h : OpAccounts d n us s) (he : OpEdge s u) (hq : u.rspValid = false) :
    OpAccounts d n (us ++ s.unitTaken.toList) u := by
  cases he with
  | respond e m rest => exact absurd rest h.busy
  | start d m rest _ _ _ => exact absurd rest h.busy
  | accept x b run ready taken entry =>
    rw [taken]
    exact h.beginEdge.accept run entry
  | invalid x run dec taken bad =>
    rw [taken]
    exact h.beginEdge.invalidCharacter run dec x
  | drain x drains taken =>
    rw [taken]
    exact h.beginEdge.drainUnit drains x
  | finish fin empty => simp at hq
  | wait untaken =>
    rw [untaken, Option.toList_none, List.append_nil]
    exact h.beginEdge

end Sys2Proof.Machine
end

section
/-! Scope: the accounting of R37 along every quiet run of an operation. -/

namespace Sys2Proof.Machine

/-- A quiet edge is a step without reset and without a response, and the log goes on by it. -/
theorem quietEdge_eq_some {t u : State} {l l' : Log} (h : quietEdge t l = some (u, l')) :
    t.resetDriven = false ∧ step t = .next u ∧ u.rspValid = false ∧ l' = l.after t := by
  unfold quietEdge at h
  split at h
  · cases h
  · rename_i hreset
    split at h
    · rename_i v hstep
      split at h
      · cases h
      · rename_i hquiet
        cases h
        exact ⟨by simpa using hreset, hstep, by simpa using hquiet, rfl⟩
    · cases h
    · cases h

/-- The last cycle of a quiet run. -/
theorem quietRun_succ {s t : State} {k : Nat} {l : Log} (h : quietRun (k + 1) s = some (t, l)) :
    ∃ t₀ l₀, quietRun k s = some (t₀, l₀) ∧ quietEdge t₀ l₀ = some (t, l) := by
  rw [quietRun] at h
  split at h
  · cases h
  · exact ⟨_, _, by assumption, h⟩

/-- The command that starts an operation in a direction. -/
def startInstr : Dir → Nat → Instr
  | .enc, n => .enc n
  | .dec, n => .dec n

/-- A command that gives no response starts its operation (R104, R126). -/
theorem EdgeOf.start_of_quiet {s u : State} {d : Dir} {n : Nat} (h : EdgeOf s (some (startInstr d n)) u)
    (hq : u.rspValid = false) :
    s.st = .idle ∧ n ≠ 0 ∧ n < 2 ^ s.cfg.lenW ∧ (d = .dec → n % 4 ≠ 1) ∧ u = s.beginEdge.start d n := by
  cases d <;> cases h
  case enc.response => simp at hq
  case dec.response => simp at hq
  case enc.startEnc rest nonempty fits => exact ⟨rest, nonempty, fits, nofun, rfl⟩
  case dec.startDec rest nonempty valid fits => exact ⟨rest, nonempty, fits, fun _ => valid, rfl⟩

/-- The units a block takes in IDLE: none (R141). -/
theorem State.unitTaken_of_idle {s : State} (h : s.st = .idle) : s.unitTaken = none := by
  apply State.unitTaken_eq_none
  simp [State.inFires, State.inReady, h]

/-- R37 from the cycle that takes the command until the response, whatever the timing of the ports. -/
theorem opAccounts_quietRun {s : State} {d : Dir} {n : Nat} (hc : ControlInv s) (hw : WidthInv s)
    (htaken : s.takenInstr = some (startInstr d n)) {k : Nat} {t : State} {l : Log}
    (h : quietRun (k + 1) s = some (t, l)) : OpAccounts d n l.units t := by
  induction k generalizing t l with
  | zero =>
    obtain ⟨hreset, hstep, hquiet, rfl⟩ := quietEdge_eq_some h
    obtain ⟨u, hedge, rfl⟩ := edge_of_step hreset hstep
    rw [htaken] at hedge
    rw [State.handOver_rspValid] at hquiet
    obtain ⟨hidle, h0, hn, hv, rfl⟩ := hedge.start_of_quiet hquiet
    have hunits : (Log.after { units := [], beats := [] } s).units = [] := by
      simp [Log.after, State.unitTaken_of_idle hidle]
    rw [hunits]
    exact (OpAccounts.start (s := s.beginEdge) hc hw hidle h0 hn hv).handOver _
  | succ k ih =>
    obtain ⟨t₀, l₀, hrun, hlast⟩ := quietRun_succ h
    have hacc := ih hrun
    obtain ⟨hreset, hstep, hquiet, rfl⟩ := quietEdge_eq_some hlast
    obtain ⟨u, hedge, rfl⟩ := opEdge_of_step hacc.control hreset hstep
    rw [State.handOver_rspValid] at hquiet
    exact (hacc.opEdge hedge hquiet).handOver _

/-- The live entries by their index in the stream, as R37 has them. -/
theorem BlockAccounts.getElem?_entries {s : State} {whole part : List Nat} (h : BlockAccounts s whole part) {i : Fin 4}
    (hi : i < s.fill) :
    (whole ++ part)[(whole ++ part).length - s.fill.val + i.val]?.map (entryOf s.dir) =
      some (some (s.carry.get i)) := by
  have hindex : (whole ++ part).length - s.fill.val + i.val = whole.length + i.val := by
    rw [List.length_append, h.part_length, Nat.add_sub_cancel]
  rw [hindex, List.getElem?_append_right (Nat.le_add_right _ _), Nat.add_sub_cancel_left, ← List.getElem?_map,
    h.entries, List.getElem?_map, State.live_getElem? hi]
  rfl

/-- The units of whole blocks are those taken but the ones in the FIFO. -/
theorem BlockAccounts.whole_length {s : State} {whole part : List Nat} (h : BlockAccounts s whole part) :
    (whole ++ part).length - s.fill.val = whole.length := by
  rw [List.length_append, h.part_length, Nat.add_sub_cancel]

section

variable {s : State} {n : Nat} {us : List Nat}

theorem OpAccounts.encodeAccounts (h : OpAccounts .enc n us s) (hrun : s.st = .run) : EncodeAccounts n us s := by
  obtain ⟨whole, part, rfl, hblock⟩ := h.running hrun
  have hwhole := hblock.whole_length
  have hdvd := hblock.blocks
  have hproduced := hblock.produced
  rw [h.dir] at hdvd hproduced
  refine ⟨h.counted, ?_, ?_, fun i hi => ?_, ?_⟩
  · rw [hwhole]
    exact Nat.mod_eq_zero_of_dvd hdvd
  · rw [List.length_append, hblock.part_length]
    exact Nat.le_add_left _ _
  · have hentry := hblock.getElem?_entries hi
    rw [h.dir] at hentry
    simpa [entryOf] using hentry
  · rw [hwhole, hproduced, outUnitCount, charsForEncode]
    rw [blockSize] at hdvd
    omega

theorem OpAccounts.decodeAccounts (h : OpAccounts .dec n us s) (hrun : s.st = .run) : DecodeAccounts n us s := by
  obtain ⟨whole, part, rfl, hblock⟩ := h.running hrun
  have hwhole := hblock.whole_length
  have hdvd := hblock.blocks
  have hproduced := hblock.produced
  rw [h.dir] at hdvd hproduced
  refine ⟨h.counted, ?_, ?_, fun i hi => ?_, ?_⟩
  · rw [hwhole]
    exact Nat.mod_eq_zero_of_dvd hdvd
  · rw [List.length_append, hblock.part_length]
    exact Nat.le_add_left _ _
  · have hentry := hblock.getElem?_entries hi
    rw [h.dir] at hentry
    exact hentry
  · rw [hwhole, hproduced, outUnitCount]

/-- At FIN no unit is left to take (R36 I1). -/
theorem OpAccounts.length_of_fin {d : Dir} (h : OpAccounts d n us s) (hfin : s.st = .fin) : us.length = n := by
  obtain ⟨hrem, -⟩ := (controlInv_fin_iff hfin).1 h.control
  have hcounted := h.counted
  omega

end

/-- Settles O48, by the accounting invariant of the quiet run that the command starts. -/
theorem encodeOperationAccountsForItsStream : Obligations.EncodeOperationAccountsForItsStream := by
  intro s t n k l hc hw _ htaken _ hrun
  have hacc : OpAccounts .enc n l.units t := opAccounts_quietRun (d := .enc) hc hw htaken hrun
  have hok : t.stat = .ok := hacc.encodeOk hacc.dir
  refine ⟨hacc.encodeAccounts, fun hfin => ⟨hok, hacc.length_of_fin hfin, ?_⟩⟩
  rw [hacc.finished hfin hok, hacc.dir, outUnitCount]

/-- Settles O49, by the accounting invariant of the quiet run that the command starts. -/
theorem decodeOperationAccountsForItsStream : Obligations.DecodeOperationAccountsForItsStream := by
  intro s t n k l hc hw _ htaken _ hclass hrun
  have hacc : OpAccounts .dec n l.units t := opAccounts_quietRun (d := .dec) hc hw htaken hrun
  refine ⟨hacc.decodeAccounts, fun hfin => ⟨hacc.length_of_fin hfin, fun hok => ?_⟩⟩
  rw [hacc.finished hfin hok, hacc.dir, outUnitCount, bytesForDecode, lenValidDec, decide_eq_true hclass, if_pos rfl]

end Sys2Proof.Machine
end

section
/-! Scope: the units a beat carries (R44) and the operand bits a transaction does not read (R45, R145, R173). -/

namespace Sys2Proof.Machine

/-- Settles O18, by `lane_packLanes`: the lanes follow the recursion of `packLanes` over the units. -/
theorem beatLanesHoldTheUnitsInOrder : Obligations.BeatLanesHoldTheUnitsInOrder := by
  intro us _ i hi
  exact lane_packLanes us hi

/-- An encode unit is read in its low 8 bits (R45). -/
theorem unitByte_eq_unitByte_iff {u v : Nat} : unitByte u = unitByte v ↔ u % 256 = v % 256 := by
  rw [unitByte, unitByte, ← BitVec.toNat_inj, BitVec.toNat_ofNat, BitVec.toNat_ofNat]

/-- IN_ENC reads its operand through `unitByte` alone, where it is taken and where it waits (R105). -/
theorem exec_inEnc_congr {u v : Nat} (h : unitByte u = unitByte v) (s : State) :
    exec (.inEnc u) s = exec (.inEnc v) s := by
  simp only [exec, execInEnc, h]

/-- Settles O35: IN_ENC reads `unitByte` of its operand, and the other arms do not name theirs. -/
theorem ignoredOperandBitsHaveNoEffect : Obligations.IgnoredOperandBitsHaveNoEffect := by
  intro s u v
  refine ⟨fun h => exec_inEnc_congr (unitByte_eq_unitByte_iff.2 h) s, ?drain, ?reserved⟩
  case drain => rfl
  case reserved => exact ⟨rfl, rfl, rfl, rfl⟩

end Sys2Proof.Machine
end

section
/-! Scope: the decoder and the encoder of beats (R61, R62, R64, R68). A command word is an opcode and a length, and every
transaction is a command or one of the three readings of a unit. -/

namespace Sys2Proof.Machine

section CommandWord

variable {p : Config.Params} {n : Nat}

/-- The opcode field of a packed word, CW[LEN_W+2:LEN_W] (R61). -/
theorem commandWord_div (op : Nat) (hn : n < 2 ^ p.lenW) : commandWord p op n / 2 ^ p.lenW = op := by
  rw [commandWord, Nat.add_comm, Nat.add_mul_div_right _ _ (Nat.two_pow_pos _), Nat.div_eq_of_lt hn, Nat.zero_add]

/-- The length field of a packed word, CW[LEN_W-1:0] (R61). -/
theorem commandWord_mod (op : Nat) (hn : n < 2 ^ p.lenW) : commandWord p op n % 2 ^ p.lenW = n := by
  rw [commandWord, Nat.mul_add_mod_self_right, Nat.mod_eq_of_lt hn]

/-- Every word that fits is the packed word of its two fields (R61). -/
theorem commandWord_fields {cw : Nat} (h : cw < 2 ^ (p.lenW + 3)) :
    commandWord p (BitVec.ofNat 3 (cw / 2 ^ p.lenW)).toNat (cw % 2 ^ p.lenW) = cw := by
  have hop : cw / 2 ^ p.lenW < 2 ^ 3 := Nat.div_lt_of_lt_mul (by rwa [← pow_add])
  rw [BitVec.toNat_ofNat, Nat.mod_eq_of_lt hop, commandWord, Nat.div_add_mod']

/-- The decoder on a packed word: the opcode map of R62, whatever the state and direction (R68). -/
theorem decode_commandWord {st : Ctl} {dir : Dir} (op : BitVec 3) (hn : n < 2 ^ p.lenW) :
    decode p st dir (.cmd (commandWord p op.toNat n)) = .ok (decodeCommand op n) := by
  rw [decode, if_pos (commandWord_lt op.isLt hn), commandWord_div _ hn, commandWord_mod _ hn, BitVec.ofNat_toNat,
    BitVec.setWidth_eq]

/-- What a word that decodes is made of. -/
theorem exists_of_decode_cmd {st : Ctl} {dir : Dir} {cw : Nat} {i : Instr} (h : decode p st dir (.cmd cw) = .ok i) :
    ∃ (op : BitVec 3) (n : Nat), n < 2 ^ p.lenW ∧ commandWord p op.toNat n = cw ∧ decodeCommand op n = i := by
  rw [decode] at h
  split at h
  case isTrue hfits =>
    exact ⟨_, _, Nat.mod_lt _ (Nat.two_pow_pos _), commandWord_fields hfits, Except.ok.inj h⟩
  case isFalse => cases h

end CommandWord

/-- The eight rows of the opcode map (R62). -/
theorem opcode_cases : ∀ op : BitVec 3,
    op = 0 ∨ op = 1 ∨ op = 2 ∨ op = 3 ∨ op = 4 ∨ op = 5 ∨ op = 6 ∨ op = 7 := by decide

@[simp] theorem encode_decodeCommand (p : Config.Params) (op : BitVec 3) (n : Nat) :
    encode p (decodeCommand op n) = .cmd (commandWord p op.toNat n) := by
  rcases opcode_cases op with rfl | rfl | rfl | rfl | rfl | rfl | rfl | rfl <;> rfl

@[simp] theorem wellFormed_decodeCommand (p : Config.Params) (op : BitVec 3) (n : Nat) :
    (decodeCommand op n).wellFormed p = decide (n < 2 ^ p.lenW) := by
  rcases opcode_cases op with rfl | rfl | rfl | rfl | rfl | rfl | rfl | rfl <;> rfl

@[simp] theorem readIn_decodeCommand (op : BitVec 3) (n : Nat) (st : Ctl) (dir : Dir) :
    (decodeCommand op n).readIn st dir = true := by
  rcases opcode_cases op with rfl | rfl | rfl | rfl | rfl | rfl | rfl | rfl <;> rfl

/-- Every transaction is a row of the opcode map or is carried by a unit (R62, R64). -/
theorem exists_decodeCommand_or_unit (p : Config.Params) (i : Instr) :
    (∃ op n, i = decodeCommand op n) ∨ ∃ u, encode p i = .unit u := by
  cases i with
  | reserved000 n => exact .inl ⟨0, n, rfl⟩
  | lenEnc n => exact .inl ⟨1, n, rfl⟩
  | lenDec n => exact .inl ⟨2, n, rfl⟩
  | enc n => exact .inl ⟨3, n, rfl⟩
  | dec n => exact .inl ⟨4, n, rfl⟩
  | reserved101 n => exact .inl ⟨5, n, rfl⟩
  | reserved110 n => exact .inl ⟨6, n, rfl⟩
  | reserved111 n => exact .inl ⟨7, n, rfl⟩
  | inEnc u => exact .inr ⟨u, rfl⟩
  | inDec u => exact .inr ⟨u, rfl⟩
  | inDrain u => exact .inr ⟨u, rfl⟩

section UnitBeat

variable {p : Config.Params} {st : Ctl} {dir : Dir} {u : Nat} {i : Instr}

/-- The decoder on a unit that fits: the reading of R64, or the rejection that says no unit is taken. -/
theorem decode_unit (hu : u < 2 ^ p.charW) :
    decode p st dir (.unit u) = (decodeUnit st dir u).elim (.error .noUnitAccepted) .ok := by
  rw [decode, if_pos hu]
  cases decodeUnit st dir u <;> rfl

theorem decode_unit_eq_ok_iff :
    decode p st dir (.unit u) = .ok i ↔ u < 2 ^ p.charW ∧ decodeUnit st dir u = some i := by
  by_cases hu : u < 2 ^ p.charW
  · rw [decode_unit hu]
    cases decodeUnit st dir u <;> simp [hu]
  · simp [decode, hu]

/-- The reading of a unit is the transaction with that unit whose state and direction these are (R64). -/
theorem decodeUnit_eq_some_iff (p : Config.Params) :
    decodeUnit st dir u = some i ↔ encode p i = .unit u ∧ i.readIn st dir = true := by
  constructor
  · intro h
    cases st <;> cases dir <;> cases h <;> exact ⟨rfl, rfl⟩
  · rintro ⟨henc, hread⟩
    cases i <;> cases henc
    case inEnc.refl =>
      obtain ⟨rfl, rfl⟩ : st = .run ∧ dir = .enc := by simpa [Instr.readIn] using hread
      rfl
    case inDec.refl =>
      obtain ⟨rfl, rfl⟩ : st = .run ∧ dir = .dec := by simpa [Instr.readIn] using hread
      rfl
    case inDrain.refl =>
      obtain rfl : st = .drain := by simpa [Instr.readIn] using hread
      rfl

/-- A transaction carried by a unit is well formed where the unit fits its port (R64). -/
theorem wellFormed_of_encode_unit (h : encode p i = .unit u) : i.wellFormed p = decide (u < 2 ^ p.charW) := by
  cases i <;> cases h <;> rfl

end UnitBeat

/-- Settles O6: a command by the two fields of its word, a unit by the state and direction that read it. -/
theorem decodeOfEncodeIsIdentity : Obligations.DecodeOfEncodeIsIdentity := by
  intro p st dir i hwf hread
  rcases exists_decodeCommand_or_unit p i with ⟨op, n, rfl⟩ | ⟨u, henc⟩
  · rw [encode_decodeCommand]
    exact decode_commandWord op (by simpa using hwf)
  · rw [wellFormed_of_encode_unit henc] at hwf
    rw [henc]
    exact decode_unit_eq_ok_iff.2 ⟨of_decide_eq_true hwf, (decodeUnit_eq_some_iff p).2 ⟨henc, hread⟩⟩

/-- Settles O7: a word that decodes is the packed word of its fields, and a unit is read in one way alone. -/
theorem encodeOfDecodeIsIdentity : Obligations.EncodeOfDecodeIsIdentity := by
  intro p st dir b i h
  cases b with
  | cmd cw =>
    obtain ⟨op, n, hn, rfl, rfl⟩ := exists_of_decode_cmd h
    simp [hn]
  | unit u =>
    obtain ⟨hu, hunit⟩ := decode_unit_eq_ok_iff.1 h
    obtain ⟨henc, hread⟩ := (decodeUnit_eq_some_iff p).1 hunit
    exact ⟨henc, (wellFormed_of_encode_unit henc).trans (decide_eq_true hu), hread⟩

/-- Settles O3: each clause is `decode_commandWord` at one opcode. -/
theorem opcodeMapIsTotal : Obligations.OpcodeMapIsTotal := by
  intro p st dir n hn
  exact ⟨decode_commandWord 0b000 hn, decode_commandWord 0b001 hn, decode_commandWord 0b010 hn,
    decode_commandWord 0b011 hn, decode_commandWord 0b100 hn, decode_commandWord 0b101 hn,
    decode_commandWord 0b110 hn, decode_commandWord 0b111 hn⟩

/-- Settles O4: each clause is `decode_unit` in one state and direction. -/
theorem unitReadingIsSetByStateAndDirection : Obligations.UnitReadingIsSetByStateAndDirection := by
  intro p dir u hu
  exact ⟨decode_unit hu, decode_unit hu, decode_unit hu, decode_unit hu, decode_unit hu⟩

/-- A table word of more than 16 bits is read as a packed command word (log 9). -/
theorem decodeTableWord_commandWord (op : BitVec 3) {n : Nat} (hn : n < 2 ^ Config.example16.lenW) :
    decodeTableWord 24 (commandWord Config.example16 op.toNat n) = some (decodeCommand op n) := by
  have hw : commandWord Config.example16 op.toNat n < 2 ^ 24 :=
    (commandWord_lt op.isLt hn).trans (by decide)
  have hbeat : tableBeat 24 (commandWord Config.example16 op.toNat n) =
      .cmd (commandWord Config.example16 op.toNat n) := by
    rw [tableBeat, if_neg (by decide), Nat.mod_eq_of_lt hw]
  rw [decodeTableWord, hbeat, decode_commandWord op hn]

/-- Settles O5: the command words are packed words of their opcode and length, and the units fit 16 bits. -/
theorem specWordsDecode : Obligations.SpecWordsDecode := by
  refine ⟨decodeTableWord_commandWord 1 (n := 7) ?_, decodeTableWord_commandWord 2 (n := 5) ?_,
    decodeTableWord_commandWord 3 (n := 65535) ?_, decodeTableWord_commandWord 4 (n := 10) ?_,
    decodeTableWord_commandWord 0 (n := 5) ?_, decodeTableWord_commandWord 7 (n := 5) ?_,
    decode_unit (u := 0x0141) ?_, decode_unit (u := 0x0021) ?_⟩ <;> decide

end Sys2Proof.Machine
end

section
/-! Scope: the alphabet and its lookup table (R80 to R87). EncMap and DecLUT are told once, as one relation between
characters and codes, so that each is the other's inverse and what no character is can be read off. -/

namespace Sys2Proof.Machine

/-- The character `c` stands at position `v` of the alphabet: `A`..`Z`, `a`..`z`, `0`..`9`, `-`, `_` (R80, R81). -/
def AlphabetRow (v : Code) (c : Byte) : Prop :=
  (v.toNat ≤ 25 ∧ c.toNat = 0x41 + v.toNat) ∨
  (26 ≤ v.toNat ∧ v.toNat ≤ 51 ∧ c.toNat = 0x61 + (v.toNat - 26)) ∨
  (52 ≤ v.toNat ∧ v.toNat ≤ 61 ∧ c.toNat = 0x30 + (v.toNat - 52)) ∨
  (v.toNat = 62 ∧ c.toNat = 0x2D) ∨
  (v.toNat = 63 ∧ c.toNat = 0x5F)

theorem alphabetRow_encMap (v : Code) : AlphabetRow v (encMap v) := by
  unfold encMap AlphabetRow
  split_ifs with hupper hlower hdigit hminus
  · exact .inl (by bv_omega)
  · exact .inr (.inl (by bv_omega))
  · exact .inr (.inr (.inl (by bv_omega)))
  · exact .inr (.inr (.inr (.inl ⟨by bv_omega, rfl⟩)))
  · exact .inr (.inr (.inr (.inr ⟨by bv_omega, rfl⟩)))

theorem AlphabetRow.char_unique {v : Code} {c d : Byte} (hc : AlphabetRow v c) (hd : AlphabetRow v d) : c = d := by
  unfold AlphabetRow at hc hd
  exact BitVec.eq_of_toNat_eq (by omega)

/-- EncMap (R81). -/
theorem encMap_eq_iff {v : Code} {c : Byte} : encMap v = c ↔ AlphabetRow v c :=
  ⟨fun h => h ▸ alphabetRow_encMap v, (alphabetRow_encMap v).char_unique⟩

/-- DecLUT (R84, R85): each range of valid entries is the range of the alphabet with its characters. -/
theorem decLut_eq_some_iff {c : Byte} {v : Code} : decLut c = some v ↔ AlphabetRow v c := by
  unfold decLut AlphabetRow
  split_ifs with hupper hlower hdigit hminus hunderscore
  case neg => rw [false_iff]; bv_omega
  all_goals rw [Option.some_inj]; bv_omega

/-- The two tables are inverse to each other (R86). -/
theorem decLut_eq_some_iff_encMap_eq {c : Byte} {v : Code} : decLut c = some v ↔ encMap v = c :=
  decLut_eq_some_iff.trans encMap_eq_iff.symm

@[simp] theorem decLut_encMap (v : Code) : decLut (encMap v) = some v :=
  decLut_eq_some_iff_encMap_eq.2 rfl

/-- `+`, `/` and `=` stand at no position of the alphabet (R87). -/
theorem AlphabetRow.not_plus_slash_padding {v : Code} {c : Byte} (h : AlphabetRow v c) :
    c ≠ 0x2B ∧ c ≠ 0x2F ∧ c ≠ 0x3D := by
  unfold AlphabetRow at h
  refine ⟨?_, ?_, ?_⟩ <;> bv_omega

/-- Settles O9: the sequence entry by entry, and each range of the formula from the position's row of the alphabet. -/
theorem encMapIsTheAlphabetInOrder : Obligations.EncMapIsTheAlphabetInOrder := by
  refine ⟨by decide, fun v => ?_⟩
  have hrow : AlphabetRow v (encMap v) := alphabetRow_encMap v
  unfold AlphabetRow at hrow
  refine ⟨?_, ?_, ?_, ?_, ?_⟩ <;> omega

/-- Settles O10: the table entry by entry, and both inverse laws from the rows that EncMap and DecLUT share. -/
theorem decLutIsTheTableAndInvertsEncMap : Obligations.DecLutIsTheTableAndInvertsEncMap :=
  ⟨by decide, decLut_encMap, fun _ _ => decLut_eq_some_iff_encMap_eq⟩

/-- Settles O11: a character of an encoded text is a value of EncMap, and so has a row of the alphabet. -/
theorem alphabetHasNoPlusSlashOrPadding : Obligations.AlphabetHasNoPlusSlashOrPadding := by
  refine ⟨fun v => (alphabetRow_encMap v).not_plus_slash_padding, fun bs c hc => ?_⟩
  obtain ⟨v, hv⟩ := mem_encodeBytes hc
  exact (encMap_eq_iff.1 hv).not_plus_slash_padding

end Sys2Proof.Machine
end

section
/-! Scope: the length calculators (R90 to R94) and the two commands that answer them (R95, R96). -/

namespace Sys2Proof.Machine

/-- The decode length where there is one (R91). -/
theorem bytesForDecode_eq_some_iff {n m : Nat} : bytesForDecode n = some m ↔ n % 4 ≠ 1 ∧ 3 * n / 4 = m := by
  simp [bytesForDecode, lenValidDec]

/-- The one length class without a decode length (R91, R92). -/
theorem bytesForDecode_eq_none_iff {n : Nat} : bytesForDecode n = none ↔ n % 4 = 1 := by
  simp [bytesForDecode, lenValidDec]

/-- CharsForEncode is the ceiling of 4n/3 (R90). -/
theorem charsForEncode_ceil (n : Nat) : 4 * n ≤ 3 * charsForEncode n ∧ 3 * charsForEncode n < 4 * n + 3 := by
  unfold charsForEncode
  omega

/-- Settles O13: the ceiling bounds leave one value for each closed form of an encode length, and the closed forms of a
decode length lie in the length classes that `bytesForDecode_eq_some_iff` accepts. -/
theorem lengthCalculatorsHaveTheirClosedForms : Obligations.LengthCalculatorsHaveTheirClosedForms := by
  refine ⟨fun n => ⟨rfl, charsForEncode_ceil n⟩, fun n => ⟨bytesForDecode_eq_none_iff, fun h => ?_⟩, fun q => ?_⟩
  · exact bytesForDecode_eq_some_iff.2 ⟨h, rfl⟩
  · have h0 := charsForEncode_ceil (3 * q)
    have h1 := charsForEncode_ceil (3 * q + 1)
    have h2 := charsForEncode_ceil (3 * q + 2)
    simp only [bytesForDecode_eq_some_iff]
    omega

/-- Settles O14, by linear arithmetic in `2 ^ LEN_W`. -/
theorem lengthResultsFitTheirRegisters : Obligations.LengthResultsFitTheirRegisters := by
  intro p n hn
  have hceil := charsForEncode_ceil n
  simp only [pow_succ]
  refine ⟨by omega, by omega, fun m hm => ?_⟩
  obtain ⟨-, rfl⟩ := bytesForDecode_eq_some_iff.1 hm
  omega

/-- A command offered in IDLE is the beat taken (R140). -/
theorem State.takenInstr_of_command {s : State} (hidle : s.st = .idle) (hv : s.sampled.cmdValid = true) :
    s.takenInstr = some (decodeCommand s.sampled.cmdOp s.sampled.cmdLen) := by
  simp [State.takenInstr, State.cmdFires, hv, s.cmdReady_iff.2 hidle]

/-- A response whose length fits `rsp_len` carries that length, and writes the response registers alone (R30). -/
theorem State.respond_eq {s : State} {m : Nat} (e : Status) (h : m < 2 ^ (s.cfg.lenW + 1)) :
    s.respond e m = { s with rspValid := true, rspStatus := e, rspLen := m } := by
  rw [State.respond, narrow_eq_self h]

/-- Settles O23: the encoded length fits `rsp_len`, so the response is exact. -/
theorem lenEncAnswersTheEncodedLength : Obligations.LenEncAnswersTheEncodedLength := by
  intro s n hidle hn
  refine ⟨fun hv hop hlen => ?_, ?_⟩
  · rw [State.takenInstr_of_command hidle hv, hop, hlen]
    rfl
  · have hfits : charsForEncode n < 2 ^ (s.cfg.lenW + 1) := outUnitCount_lt (d := .enc) le_rfl hn
    rw [exec_lenEnc hidle, State.respond_eq .ok hfits, charsForEncode]

/-- Settles O24: each length class has its response, and the decoded length fits `rsp_len`. -/
theorem lenDecAnswersTheDecodedLength : Obligations.LenDecAnswersTheDecodedLength := by
  intro s n hidle hn
  refine ⟨fun hv hop hlen => ?_, fun hbad => ?_, fun hgood => ?_⟩
  · rw [State.takenInstr_of_command hidle hv, hop, hlen]
    rfl
  · rw [exec_lenDec hidle, if_pos hbad, State.respond_eq .invalidLength (Nat.two_pow_pos _)]
  · have hfits : 3 * n / 4 < 2 ^ (s.cfg.lenW + 1) := outUnitCount_lt (d := .dec) le_rfl hn
    rw [exec_lenDec hidle, if_neg hgood, State.respond_eq .ok hfits]

end Sys2Proof.Machine
end

section
/-! Scope: the output beats of an operation, for both directions at once (R43, R108, R129). One beat carries one block
of the stream, and the beats taken, with the one that waits, carry the whole blocks of the units taken. -/

namespace Sys2Proof.Machine

/-! ### The output of a run of blocks (R103, R125) -/

theorem encodeCodes_append {xs : List Byte} (h : 3 ∣ xs.length) (ys : List Byte) :
    encodeCodes (xs ++ ys) = encodeCodes xs ++ encodeCodes ys := by
  fun_induction encodeCodes xs with
  | case1 b0 b1 b2 rest ih =>
    have hrest : 3 ∣ rest.length := (Nat.dvd_add_left (Nat.dvd_refl 3)).1 h
    simp [encodeCodes, ih hrest]
  | case2 | case3 => simp at h
  | case4 => rfl

theorem encodeBytes_append {xs : List Byte} (h : 3 ∣ xs.length) (ys : List Byte) :
    encodeBytes (xs ++ ys) = encodeBytes xs ++ encodeBytes ys := by
  rw [encodeBytes, encodeCodes_append h, List.map_append, ← encodeBytes, ← encodeBytes]

theorem decodeCodes_append {vs : List Code} (h : 4 ∣ vs.length) (ws : List Code) :
    decodeCodes (vs ++ ws) = decodeCodes vs ++ decodeCodes ws := by
  fun_induction decodeCodes vs with
  | case1 v0 v1 v2 v3 rest ih =>
    have hrest : 4 ∣ rest.length := (Nat.dvd_add_left (Nat.dvd_refl 4)).1 h
    simp [decodeCodes, ih hrest]
  | case2 | case3 | case4 => simp at h
  | case5 => rfl

/-- The output units of a stream whose units have the FIFO entries `es` (R103, R125). -/
def outputOf : Dir → List Byte → List Byte
  | .enc, es => encodeBytes es
  | .dec, es => decodeCodes (es.map (BitVec.setWidth 6))

theorem State.block_eq_outputOf (s : State) (b : Byte) : s.block b = outputOf s.dir (s.live ++ [b]) := by
  rw [State.block]
  cases s.dir <;> rfl

theorem outputOf_append {d : Dir} {es : List Byte} (h : blockSize d ∣ es.length) (fs : List Byte) :
    outputOf d (es ++ fs) = outputOf d es ++ outputOf d fs := by
  cases d with
  | enc => exact encodeBytes_append h fs
  | dec => rw [outputOf, List.map_append, decodeCodes_append (by rwa [List.length_map])]; rfl

theorem outputOf_length (d : Dir) (es : List Byte) : (outputOf d es).length = outUnitCount d es.length := by
  cases d <;> simp [outputOf, outUnitCount, encodeBytes_length, decodeCodes_length]

/-- The lengths of the beats of `k` units: those of the full blocks, and that of the tail (R108, R129). -/
def beatLengths (d : Dir) (k : Nat) : List Nat :=
  List.replicate (k / blockSize d) (outUnitCount d (blockSize d)) ++
    if k % blockSize d = 0 then [] else [outUnitCount d (k % blockSize d)]

theorem blockSize_pos (d : Dir) : 0 < blockSize d := by cases d <;> decide

/-- One block more is one beat more. -/
theorem beatLengths_add {d : Dir} {m k : Nat} (hm : blockSize d ∣ m) (hpos : 0 < k) (hk : k ≤ blockSize d) :
    beatLengths d (m + k) = beatLengths d m ++ [outUnitCount d k] := by
  obtain ⟨q, rfl⟩ := hm
  have hblk := blockSize_pos d
  rcases Nat.lt_or_eq_of_le hk with hlt | rfl
  · have hdiv : (blockSize d * q + k) / blockSize d = q := by
      rw [Nat.mul_add_div hblk, Nat.div_eq_of_lt hlt, Nat.add_zero]
    simp [beatLengths, hdiv, Nat.mod_eq_of_lt hlt, hpos.ne', Nat.mul_div_cancel_left q hblk]
  · simp [beatLengths, ← Nat.mul_succ, Nat.mul_div_cancel_left _ hblk, List.replicate_succ']

/-- The beats `bs` carry the output of the entries `es`, one beat a block (R43). -/
structure CarryOutput (d : Dir) (es : List Byte) (bs : List (List Byte)) : Prop where
  units : bs.flatten = outputOf d es
  lengths : bs.map List.length = beatLengths d es.length

theorem CarryOutput.nil (d : Dir) : CarryOutput d [] [] := by
  cases d <;> exact ⟨rfl, rfl⟩

/-- The beat of the next block, full or the tail, after the beats of whole blocks. -/
theorem CarryOutput.snoc {d : Dir} {es : List Byte} {bs : List (List Byte)} (h : CarryOutput d es bs)
    (hes : blockSize d ∣ es.length) {fs : List Byte} (hpos : 0 < fs.length) (hfs : fs.length ≤ blockSize d) :
    CarryOutput d (es ++ fs) (bs ++ [outputOf d fs]) where
  units := by rw [outputOf_append hes, List.flatten_append, h.units, List.flatten_singleton]
  lengths := by
    rw [List.map_append, h.lengths, List.length_append, beatLengths_add hes hpos hfs, List.map_singleton,
      outputOf_length]

/-! ### The beat that waits in the output register (R29, R144) -/

/-- The beat in the output register, where there is one. -/
def State.waiting (s : State) : List (List Byte) := if s.outValid then [s.outUnits] else []

theorem State.waiting_of_empty {s : State} (h : s.outValid = false) : s.waiting = [] := by simp [State.waiting, h]

theorem State.waiting_emitBlock {s : State} (hc : ControlInv s) (hrun : s.st = .run) (hemit : s.emitNext = true)
    (b : Byte) : (s.emitBlock b).waiting = [s.block b] := by
  have hunits : (s.emitBlock b).outUnits = s.block b :=
    outUnits_of_packLanes (State.block_length_le b hc hrun hemit) (State.emitBlock_outData s b)
      (State.emitBlock_outCnt s b)
  have hvalid : (s.emitBlock b).outValid = true := by simp [State.emitBlock]
  rw [State.waiting, hvalid, if_pos rfl, hunits]

/-- An edge that finds a beat waiting leaves it to the output handshake (R141, R146). -/
theorem OpEdge.waiting_eq {s u : State} (h : OpEdge s u) (hv : s.outValid = true) : u.waiting = s.waiting := by
  cases h with
  | accept x b run ready taken entry =>
    cases hemit : s.beginEdge.emitNext
    · rw [State.accept_of_not_emitNext hemit]
      rfl
    · have hempty : s.outValid = false := State.outValid_of_emits ready run hemit
      simp [hempty] at hv
  | drain x drains taken => simp [State.waiting, State.outUnits]
  | finish fin empty => simp [empty] at hv
  | respond | start | invalid | wait => rfl

/-- At an edge the waiting beat is taken or stays, and the beats are the same in both cases (R43, R144). -/
theorem OpEdge.beatTaken_append_waiting {s u : State} (h : OpEdge s u) (hr : s.resetDriven = false) :
    s.beatTaken.toList ++ (u.handOver s.outFires).waiting = u.waiting := by
  cases hf : s.outFires
  · simp [State.beatTaken, hf, State.handOver]
  · have hv : s.outValid = true := (Bool.and_eq_true_iff.1 hf).1
    rw [h.waiting_eq hv]
    simp [State.beatTaken, hr, hf, State.waiting, hv]

/-! ### The invariant -/

/-- In an operation in direction `d`, of which the units `us` and the beats `bs` are taken: the beats, with the one that
waits, carry the whole blocks of `us`, and at FIN all of `us`, where no character was invalid (R37, R43). -/
structure BeatAccounts (d : Dir) (us : List Nat) (bs : List (List Byte)) (s : State) : Prop where
  running : s.st = .run → ∃ whole : List Byte, us.map (entryOf d) = (whole ++ s.live).map some ∧
    blockSize d ∣ whole.length ∧ CarryOutput d whole (bs ++ s.waiting)
  finished : s.st = .fin → s.stat = .ok → ∃ es : List Byte, us.map (entryOf d) = es.map some ∧
    CarryOutput d es (bs ++ s.waiting)

section

variable {s : State} {d : Dir} {n : Nat} {us : List Nat} {bs : List (List Byte)}

theorem BeatAccounts.start (hempty : s.outValid = false) : BeatAccounts d [] [] (s.start d n) where
  running _ := by
    have hwaiting : (s.start d n).waiting = [] := State.waiting_of_empty hempty
    refine ⟨[], ?_, Nat.dvd_zero _, ?_⟩
    · rw [State.live_of_fill_zero rfl]
      rfl
    · rw [hwaiting]
      exact .nil d
  finished := nofun

/-- The entries of the units taken so far, with the next unit's after them. -/
theorem map_entryOf_snoc {es : List Byte} {x : Nat} {b : Byte} (hus : us.map (entryOf d) = es.map some)
    (hb : entryOf d x = some b) : (us ++ [x]).map (entryOf d) = (es ++ [b]).map some := by
  simp [hus, hb]

theorem BeatAccounts.store (h : BeatAccounts d us bs s) (hc : ControlInv s) (hrun : s.st = .run)
    (hemit : s.emitNext = false) {x : Nat} {b : Byte} (hb : entryOf d x = some b) :
    BeatAccounts d (us ++ [x]) bs (s.store b) where
  running _ := by
    obtain ⟨whole, hus, hdvd, hcarry⟩ := h.running hrun
    refine ⟨whole, ?_, hdvd, hcarry⟩
    rw [State.live_store (fill_lt_of_not_emitNext hc hrun hemit), ← List.append_assoc]
    exact map_entryOf_snoc hus hb
  finished hfin := absurd (hrun.symm.trans hfin) (by decide)

/-- The emitted block is the next beat; it is full unless it ends the stream (R105, R127). -/
theorem BeatAccounts.emitBlock (h : BeatAccounts d us bs s) (hd : s.dir = d) (hc : ControlInv s) (hrun : s.st = .run)
    (hempty : s.outValid = false) (hemit : s.emitNext = true) {x : Nat} {b : Byte} (hb : entryOf d x = some b) :
    BeatAccounts d (us ++ [x]) bs (s.emitBlock b) := by
  obtain ⟨whole, hus, hdvd, hcarry⟩ := h.running hrun
  rw [State.waiting_of_empty hempty, List.append_nil] at hcarry
  have hus' := map_entryOf_snoc hus hb
  have hlen : (s.live ++ [b]).length = s.fill.val + 1 := by
    rw [List.length_append, State.live_length, List.length_singleton]
  have hfit : s.fill.val + 1 ≤ blockSize d := by
    obtain ⟨-, hfill, -⟩ := (controlInv_run_iff hrun).1 hc
    have := blockSize_pos d
    rw [hd] at hfill
    omega
  have hcarry' := hcarry.snoc hdvd (fs := s.live ++ [b]) (by omega) (by omega)
  rw [← List.append_assoc, ← hd, ← State.block_eq_outputOf, ← State.waiting_emitBlock hc hrun hemit, hd] at hcarry'
  refine ⟨fun hrun' => ⟨_, ?_, ?_, hcarry'⟩, fun _ _ => ⟨_, hus', hcarry'⟩⟩
  · rw [State.live_of_fill_zero (State.emitBlock_fill s b), List.append_nil, hus']
  · have hmore : s.rem ≠ 1 := fun hlast => by simp [State.emitBlock_st, hlast] at hrun'
    have hfull := (s.emitNext_iff.1 hemit).resolve_right hmore
    rw [hd] at hfull
    have hblock : (s.live ++ [b]).length = blockSize d := by omega
    rw [List.append_assoc, List.length_append, hblock]
    exact (Nat.dvd_add_left (Nat.dvd_refl _)).2 hdvd

theorem BeatAccounts.accept (h : BeatAccounts d us bs s) (hd : s.dir = d) (hc : ControlInv s) (hrun : s.st = .run)
    (hready : s.inReady = true) {x : Nat} {b : Byte} (hb : entryOf d x = some b) :
    BeatAccounts d (us ++ [x]) bs (s.accept b) := by
  cases hemit : s.emitNext
  · rw [State.accept_of_not_emitNext hemit]
    exact h.store hc hrun hemit hb
  · rw [State.accept_of_emitNext hemit]
    exact h.emitBlock hd hc hrun (State.outValid_of_emits hready hrun hemit) hemit hb

/-- Where the operation is neither running nor ended with OK, no beat is accounted for. -/
theorem BeatAccounts.of_stopped (hrun : s.st ≠ .run) (hok : s.stat ≠ .ok) : BeatAccounts d us bs s :=
  ⟨fun h => absurd h hrun, fun _ h => absurd h hok⟩

theorem BeatAccounts.beginEdge (h : BeatAccounts d us bs s) : BeatAccounts d us bs s.beginEdge :=
  ⟨h.running, h.finished⟩

/-- An edge of an operation in progress, before the output handshake. -/
theorem BeatAccounts.opEdge {u : State} (h : BeatAccounts d us bs s) (hacc : OpAccounts d n us s) (he : OpEdge s u) :
    BeatAccounts d (us ++ s.unitTaken.toList) bs u := by
  cases he with
  | respond e m rest => exact absurd rest hacc.busy
  | start d m rest _ _ _ => exact absurd rest hacc.busy
  | accept x b run ready taken entry =>
    rw [taken]
    rw [hacc.dir] at entry
    exact h.beginEdge.accept hacc.dir hacc.control run ready entry
  | invalid x run dec taken bad =>
    refine .of_stopped ?_ nofun
    change (if s.rem = 1 then Ctl.fin else Ctl.drain) ≠ .run
    split <;> decide
  | drain x drains taken =>
    obtain ⟨-, -, -, hstat, -⟩ := (controlInv_drain_iff drains).1 hacc.control
    refine .of_stopped ?_ (by simp [hstat])
    rw [State.endIfLast_st, State.countUnit_st, State.beginEdge_st, drains]
    split <;> decide
  | finish fin empty => exact ⟨nofun, nofun⟩
  | wait untaken =>
    rw [untaken, Option.toList_none, List.append_nil]
    exact h.beginEdge

/-- The output handshake moves the waiting beat to the beats taken. -/
theorem BeatAccounts.handOver {u : State} (h : BeatAccounts d us bs u) (he : OpEdge s u) (hr : s.resetDriven = false) :
    BeatAccounts d us (bs ++ s.beatTaken.toList) (u.handOver s.outFires) := by
  have hbeats : bs ++ s.beatTaken.toList ++ (u.handOver s.outFires).waiting = bs ++ u.waiting := by
    rw [List.append_assoc, he.beatTaken_append_waiting hr]
  have hlive : (u.handOver s.outFires).live = u.live := by simp [State.live]
  refine ⟨?_, ?_⟩
  · rw [hbeats, hlive, State.handOver_st]
    exact h.running
  · rw [hbeats, State.handOver_st, State.handOver_stat]
    exact h.finished

end

/-! ### The quiet run of an operation, and its answer -/

/-- The beats of an operation from the cycle that takes the command until the response, whatever the timing of the
ports. -/
theorem beatAccounts_quietRun {s t : State} {d : Dir} {n k : Nat} {l : Log} (hc : ControlInv s) (hw : WidthInv s)
    (htaken : s.takenInstr = some (startInstr d n)) (h : quietRun (k + 1) s = some (t, l)) :
    BeatAccounts d l.units l.beats t := by
  induction k generalizing t l with
  | zero =>
    obtain ⟨hreset, hstep, hquiet, rfl⟩ := quietEdge_eq_some h
    obtain ⟨u, hedge, rfl⟩ := edge_of_step hreset hstep
    rw [htaken] at hedge
    rw [State.handOver_rspValid] at hquiet
    obtain ⟨hidle, -, -, -, rfl⟩ := hedge.start_of_quiet hquiet
    obtain ⟨-, -, hempty⟩ := (controlInv_idle_iff hidle).1 hc
    have hfires : s.outFires = false := by simp [State.outFires, hempty]
    have hlog : Log.after { units := [], beats := [] } s = { units := [], beats := [] } := by
      simp [Log.after, State.unitTaken_of_idle hidle, State.beatTaken, hfires]
    rw [hlog, hfires]
    exact .start hempty
  | succ k ih =>
    obtain ⟨t₀, l₀, hrun, hlast⟩ := quietRun_succ h
    have hacc : OpAccounts d n l₀.units t₀ := opAccounts_quietRun hc hw htaken hrun
    obtain ⟨hreset, hstep, -, rfl⟩ := quietEdge_eq_some hlast
    obtain ⟨u, hedge, rfl⟩ := opEdge_of_step hacc.control hreset hstep
    exact ((ih hrun).opEdge hacc hedge).handOver hedge hreset

/-- The answer of an operation in progress is the FIN step's (R146). -/
theorem OpEdge.finish_of_response {s u : State} (h : OpEdge s u) (hbusy : s.st ≠ .idle) (hrsp : u.rspValid = true) :
    s.st = .fin ∧ s.outValid = false ∧ u = s.beginEdge.finish := by
  cases h with
  | respond e m rest => exact absurd rest hbusy
  | start d m rest _ _ _ => exact absurd rest hbusy
  | accept x b run ready taken entry =>
    cases hemit : s.beginEdge.emitNext
    · rw [State.accept_of_not_emitNext hemit] at hrsp
      cases hrsp
    · simp [State.accept_of_emitNext hemit, State.emitBlock] at hrsp
  | drain x drains taken => simp at hrsp
  | finish fin empty => exact ⟨fin, empty, rfl⟩
  | invalid | wait => cases hrsp

/-- A command that starts an operation gives no response at its own edge (R104, R126). -/
theorem EdgeOf.quiet_of_start {s u : State} {d : Dir} {n : Nat} (h : EdgeOf s (some (startInstr d n)) u) (h0 : n ≠ 0)
    (hv : d = .dec → n % 4 ≠ 1) : u.rspValid = false := by
  cases d <;> cases h
  case enc.response answers => simp [AnswersAtOnce, startInstr, h0] at answers
  case dec.response answers => simp [AnswersAtOnce, startInstr, h0, hv rfl] at answers
  case enc.startEnc | dec.startDec => rfl

/-- An operation that is started and answers: its accounts hold in the cycle of the FIN step, and no beat waits. -/
theorem Answers.accounts {s t u : State} {d : Dir} {n k : Nat} {l : Log} (h : Answers s k t u l) (hc : ControlInv s)
    (hw : WidthInv s) (htaken : s.takenInstr = some (startInstr d n)) (h0 : n ≠ 0) (hv : d = .dec → n % 4 ≠ 1) :
    OpAccounts d n l.units t ∧ BeatAccounts d l.units l.beats t ∧ t.st = .fin ∧ t.outValid = false ∧
      u = t.beginEdge.finish.handOver t.outFires := by
  obtain ⟨hrun, hreset, hstep, hrsp⟩ := h
  cases k with
  | zero =>
    cases hrun
    obtain ⟨v, hedge, rfl⟩ := edge_of_step hreset hstep
    rw [htaken] at hedge
    rw [State.handOver_rspValid, hedge.quiet_of_start h0 hv] at hrsp
    cases hrsp
  | succ k =>
    have hacc : OpAccounts d n l.units t := opAccounts_quietRun hc hw htaken hrun
    have hbeats := beatAccounts_quietRun hc hw htaken hrun
    obtain ⟨v, hedge, rfl⟩ := opEdge_of_step hacc.control hreset hstep
    rw [State.handOver_rspValid] at hrsp
    obtain ⟨hfin, hempty, rfl⟩ := hedge.finish_of_response hacc.busy hrsp
    exact ⟨hacc, hbeats, hfin, hempty, rfl⟩

/-- A byte of an encode stream is always an entry. -/
theorem eq_map_unitByte {us : List Nat} {es : List Byte} (h : us.map (entryOf .enc) = es.map some) :
    es = us.map unitByte := by
  have hentry : us.map (entryOf .enc) = (us.map unitByte).map some := by
    rw [List.map_map]
    rfl
  exact (List.map_injective_iff.2 (Option.some_injective _) (hentry.symm.trans h)).symm

/-- R108's beats: four units for each full block, and the tail's. -/
theorem beatLengths_enc (n : Nat) :
    beatLengths .enc n = List.replicate (n / 3) 4 ++ if n % 3 = 0 then [] else [n % 3 + 1] := by
  have htail : n % 3 ≠ 0 → charsForEncode (n % 3) = n % 3 + 1 := by
    unfold charsForEncode
    omega
  rw [beatLengths, blockSize, outUnitCount, outUnitCount]
  by_cases h : n % 3 = 0
  · simp [h, charsForEncode]
  · rw [htail h, charsForEncode]

/-- Settles O50: at the FIN step every unit is taken and no beat waits, so the beats taken carry Encode of the stream,
and the response has the count that R37 accounts for. -/
theorem encodeStreamLaw : Obligations.EncodeStreamLaw := by
  intro s t u n k l hc hw _ htaken h0 h
  obtain ⟨hacc, hbeats, hfin, hempty, rfl⟩ := h.accounts (d := .enc) hc hw htaken h0 nofun
  have hok : t.stat = .ok := hacc.encodeOk hacc.dir
  have hlen : l.units.length = n := hacc.length_of_fin hfin
  have hproduced : t.produced = charsForEncode n := by
    rw [hacc.finished hfin hok, hacc.dir, outUnitCount]
  obtain ⟨es, hes, hcarry⟩ := hbeats.finished hfin hok
  obtain rfl := eq_map_unitByte hes
  rw [State.waiting_of_empty hempty, List.append_nil] at hcarry
  refine ⟨hlen, hcarry.units, ?_, ?_, ?_, ?_⟩
  · rw [hcarry.lengths, List.length_map, hlen, beatLengths_enc]
  · simpa using hok
  · have hfits : charsForEncode n < 2 ^ (t.cfg.lenW + 1) := outUnitCount_lt (d := .enc) le_rfl hacc.fits
    simp [hok, responseLength, hproduced, narrow_eq_self hfits]
  · simp

end Sys2Proof.Machine
end

section
/-! Scope: the pack functions and the lengths of whole inputs (R100 to R103, R125). -/

namespace Sys2Proof.Machine

/-- A field that spans two words is its part in each, most significant first (R41). -/
theorem extractLsb'_append_span {v w a b start : Nat} (x : BitVec v) (y : BitVec w) (h : start + b = w) :
    (x ++ y).extractLsb' start (a + b) = x.extractLsb' 0 a ++ y.extractLsb' start b := by
  apply BitVec.eq_of_getLsbD_eq
  intro i hi
  rw [BitVec.getLsbD_extractLsb', BitVec.getLsbD_append, BitVec.getLsbD_append, BitVec.getLsbD_extractLsb',
    BitVec.getLsbD_extractLsb']
  by_cases hlow : i < b
  · have hword : start + i < w := by omega
    simp [hi, hlow, hword]
  · have hword : ¬ start + i < w := by omega
    have hindex : start + i - w = i - b := by omega
    have hhigh : i - b < a := by omega
    simp [hi, hlow, hword, hindex, hhigh]

/-- Settles O15: each code of a block is a field of one byte, or spans two. -/
theorem packFunctionsSplitMsbFirst : Obligations.PackFunctionsSplitMsbFirst := by
  intro b0 b1 b2
  refine ⟨?_, rfl, rfl⟩
  have h0 : (b0 ++ b1 ++ b2).extractLsb' 18 6 = b0.extractLsb' 2 6 := by
    rw [BitVec.extractLsb'_append_eq_of_le (by decide), BitVec.extractLsb'_append_eq_of_le (by decide)]
  have h1 : (b0 ++ b1 ++ b2).extractLsb' 12 6 = b0.extractLsb' 0 2 ++ b1.extractLsb' 4 4 := by
    rw [BitVec.extractLsb'_append_eq_of_le (by decide)]
    exact extractLsb'_append_span (a := 2) (b := 4) b0 b1 rfl
  have h2 : (b0 ++ b1 ++ b2).extractLsb' 6 6 = b1.extractLsb' 0 4 ++ b2.extractLsb' 6 2 := by
    rw [← BitVec.extractLsb'_append_eq_of_add_le (xhi := b0) (show 0 + 4 ≤ 8 by decide)]
    exact extractLsb'_append_span (a := 4) (b := 2) (b0 ++ b1) b2 rfl
  have h3 : (b0 ++ b1 ++ b2).extractLsb' 0 6 = b2.extractLsb' 0 6 :=
    BitVec.extractLsb'_append_eq_of_add_le (by decide)
  simp only [pack3, h0, h1, h2, h3]

/-- A text that classifies has one code for each character (R125). -/
theorem classifyAll_length {us : List Nat} {vs : List Code} (h : classifyAll us = some vs) : vs.length = us.length := by
  induction us generalizing vs with
  | nil => cases h; rfl
  | cons u us ih =>
    rw [classifyAll] at h
    split at h
    · rename_i v ws _ hws
      cases h
      rw [List.length_cons, List.length_cons, ih hws]
    · cases h

/-- A text decodes where its length class is valid and each of its characters is (R125, R134). -/
theorem decodeText_eq_bytes_iff {us : List Nat} {bs : List Byte} :
    decodeText us = .bytes bs ↔ us.length % 4 ≠ 1 ∧ ∃ vs, classifyAll us = some vs ∧ decodeCodes vs = bs := by
  unfold decodeText
  by_cases hclass : us.length % 4 = 1
  · simp [hclass]
  · cases classifyAll us <;> simp [hclass]

/-- Settles O19: the lengths of `encodeCodes` and `decodeCodes`, block by block, and a text has as many codes as
characters. -/
theorem wholeInputLengths : Obligations.WholeInputLengths := by
  refine ⟨fun bs => ⟨encodeBytes_length bs, fun c hc => mem_encodeBytes hc⟩, fun us bs h => ?_⟩
  obtain ⟨hclass, vs, hvs, rfl⟩ := decodeText_eq_bytes_iff.1 h
  rw [decodeCodes_length, classifyAll_length hvs]
  exact bytesForDecode_eq_some_iff.2 ⟨hclass, rfl⟩

end Sys2Proof.Machine
end

section
/-! Scope: the command that starts an encode operation (R104), and the unit that IN_ENC takes (R105). -/

namespace Sys2Proof.Machine

/-- The start of an operation whose length fits `rem` (R104, R126). -/
theorem State.start_eq {s : State} {n : Nat} (d : Dir) (h : n < 2 ^ s.cfg.lenW) :
    s.start d n = { s with st := .run, dir := d, rem := n, fill := 0, stat := .ok, produced := 0 } := by
  rw [State.start, narrow_eq_self h]

/-- Settles O25: ENC 0 answers, and any other ENC starts with its exact length. -/
theorem encStartsAnEncodeOperation : Obligations.EncStartsAnEncodeOperation := by
  intro s n hidle hn
  refine ⟨fun hv hop hlen => ?_, fun hzero => ?_, fun hsome => ?_⟩
  · rw [State.takenInstr_of_command hidle hv, hop, hlen]
    rfl
  · rw [exec_enc hidle, if_pos hzero, State.respond_eq .ok (Nat.two_pow_pos _)]
  · rw [exec_enc hidle, if_neg hsome, State.start_eq .enc hn]

section

variable {s : State}

/-- A unit offered to a ready block is the beat taken, in the reading of its state and direction (R64, R141). -/
theorem State.takenInstr_of_unit (hready : s.inReady = true) (hv : s.sampled.inValid = true) :
    s.takenInstr = decodeUnit s.st s.dir s.sampled.inData :=
  State.takenInstr_of_inFires (Bool.and_eq_true_iff.2 ⟨hv, hready⟩)

/-- The whole state after an emitted block (R105, R127). -/
theorem State.emitBlock_eq (h1 : 1 ≤ s.rem) (hrem : s.rem < 2 ^ s.cfg.lenW) (b : Byte) :
    s.emitBlock b =
      { s with carry := s.carry.put s.fill b, rem := s.rem - 1, fill := 0, outValid := true,
               outCnt := BitVec.ofNat 3 (s.block b).length, outData := packLanes (s.block b),
               produced := (s.produced + (s.block b).length) % 2 ^ (s.cfg.lenW + 1),
               st := if s.rem = 1 then .fin else s.st } := by
  rw [← narrow_pred h1 hrem, State.emitBlock]
  by_cases hlast : s.rem = 1
  · rw [decide_eq_true hlast, if_pos hlast]
    rfl
  · rw [decide_eq_false hlast, if_neg hlast]
    rfl

/-- The whole state after a stored unit (R105, R127). -/
theorem State.store_eq (h1 : 1 ≤ s.rem) (hrem : s.rem < 2 ^ s.cfg.lenW) (b : Byte) :
    s.store b = { s with carry := s.carry.put s.fill b, rem := s.rem - 1, fill := s.fill + 1 } := by
  rw [← narrow_pred h1 hrem]
  rfl

end

/-- Settles O30: with at most two bytes in the FIFO the byte is accepted, and the branch of R105 says whether it
completes the block, and with which characters. -/
theorem inEncTakesOneByte : Obligations.InEncTakesOneByte := by
  intro s u hrun henc hready h1 hrem
  have hexec (hfill : s.fill.val ≤ 2) : exec (.inEnc u) s = .next (s.accept (unitByte u)) := by
    rw [exec_inEnc hrun henc hready, acceptByte_eq_accept henc hfill]
  have hemit : s.emitNext = true ↔ s.fill.val = 2 ∨ s.rem = 1 := by
    rw [s.emitNext_iff, henc, blockSize]
  have hexecEmit (hfill : s.fill.val ≤ 2) (h : s.fill.val = 2 ∨ s.rem = 1) :
      exec (.inEnc u) s = .next (s.emitBlock (unitByte u)) := by
    rw [hexec hfill, State.accept_of_emitNext (hemit.2 h)]
  refine ⟨fun hv hdata => ?taken, fun h => ?empty, fun h2 => ?full, fun h0 hlast => ?tail1, fun hf hlast => ?tail2,
    fun hf hmore => ?stored⟩
  case taken =>
    rw [State.takenInstr_of_unit hready hv, hrun, henc, hdata]
    rfl
  case empty => exact State.outValid_of_emits hready hrun (hemit.2 (h.imp_left (congrArg Fin.val)))
  case full =>
    have hblock : s.block (unitByte u) = (pack3 (s.carry.get 0) (s.carry.get 1) (unitByte u)).map encMap := by
      simp [State.block, State.live, henc, h2, encodeBytes, encodeCodes, Carry.get]
    rw [hexecEmit (by simp [h2]) (.inl (by simp [h2])), State.emitBlock_eq h1 hrem, hblock, h2, hrun]
    rfl
  case tail1 =>
    have hblock : s.block (unitByte u) = (tail1 (unitByte u)).map encMap := by
      simp [State.block, State.live, henc, h0, encodeBytes, encodeCodes]
    rw [hexecEmit (by simp [h0]) (.inr hlast), State.emitBlock_eq h1 hrem, hblock, h0, hlast]
    rfl
  case tail2 =>
    have hblock : s.block (unitByte u) = (tail2 (s.carry.get 0) (unitByte u)).map encMap := by
      simp [State.block, State.live, henc, hf, encodeBytes, encodeCodes, Carry.get]
    rw [hexecEmit (by simp [hf]) (.inr hlast), State.emitBlock_eq h1 hrem, hblock, hf, hlast]
    rfl
  case stored =>
    have hno : s.emitNext = false := by
      rw [← Bool.not_eq_true, hemit]
      omega
    rw [hexec (by omega), State.accept_of_not_emitNext hno, State.store_eq h1 hrem]
    rfl

end Sys2Proof.Machine
end

section
/-! Scope: the classifier (R120), the unpack functions (R121 to R124) and the round trip (R130). -/

namespace Sys2Proof.Machine

/-! ### The classifier (R120) -/

theorem classify_of_lt {u : Nat} (h : u < 256) : classify u = decLut (BitVec.ofNat 8 u) := by
  simp [classify, Nat.div_eq_of_lt h]

theorem classify_of_ge {u : Nat} (h : 256 ≤ u) : classify u = none := by
  have hquot : u / 256 ≠ 0 := (Nat.div_pos h (by decide)).ne'
  rw [classify, if_pos hquot]

/-- A character of the alphabet is an ASCII code (R80, R82). -/
theorem AlphabetRow.char_lt {v : Code} {c : Byte} (h : AlphabetRow v c) : c.toNat < 0x80 := by
  unfold AlphabetRow at h
  omega

theorem decLut_of_ge {c : Byte} (h : 0x80 ≤ c.toNat) : decLut c = none :=
  Option.eq_none_iff_forall_ne_some.2 fun _ hv => absurd (decLut_eq_some_iff.1 hv).char_lt (Nat.not_lt.2 h)

/-- Settles O12: an 8-bit code is looked up, and the upper half of the table has no character of the alphabet. -/
theorem classifierLooksUpEightBitCodes : Obligations.ClassifierLooksUpEightBitCodes := by
  refine fun u => ⟨classify_of_ge, classify_of_lt, fun p hp hu => ?_, fun h => ?_⟩
  · rw [hp] at hu
    exact classify_of_lt hu
  · rcases Nat.lt_or_ge u 256 with hlt | hge
    · rw [classify_of_lt hlt]
      exact decLut_of_ge (by rwa [BitVec.toNat_ofNat, Nat.mod_eq_of_lt hlt])
    · exact classify_of_ge hge

/-! ### The unpack functions (R121 to R124) -/

/-- The first byte of a block, full or a tail, is `{v0, v1[5:4]}` (R121 to R123). -/
theorem group_byte0 (v0 v1 v2 v3 : Code) : (v0 ++ v1 ++ v2 ++ v3).extractLsb' 16 8 = v0 ++ v1.extractLsb' 4 2 := by
  rw [BitVec.extractLsb'_append_eq_of_le (by decide), BitVec.extractLsb'_append_eq_of_le (by decide)]
  exact (extractLsb'_append_span (a := 6) (b := 2) v0 v1 rfl).trans (by rw [BitVec.extractLsb'_eq_self])

/-- The second byte of a block, full or a tail, is `{v1[3:0], v2[5:2]}` (R121, R123). -/
theorem group_byte1 (v0 v1 v2 v3 : Code) :
    (v0 ++ v1 ++ v2 ++ v3).extractLsb' 8 8 = v1.extractLsb' 0 4 ++ v2.extractLsb' 2 4 := by
  rw [BitVec.extractLsb'_append_eq_of_le (by decide),
    ← BitVec.extractLsb'_append_eq_of_add_le (xhi := v0) (show 0 + 4 ≤ 6 by decide)]
  exact extractLsb'_append_span (a := 4) (b := 4) (v0 ++ v1) v2 rfl

/-- The third byte of a full block is `{v2[1:0], v3}` (R121). -/
theorem group_byte2 (v0 v1 v2 v3 : Code) : (v0 ++ v1 ++ v2 ++ v3).extractLsb' 0 8 = v2.extractLsb' 0 2 ++ v3 := by
  rw [← BitVec.extractLsb'_append_eq_of_add_le (xhi := v0 ++ v1) (show 0 + 2 ≤ 6 by decide)]
  exact (extractLsb'_append_span (a := 2) (b := 6) (v0 ++ v1 ++ v2) v3 rfl).trans (by rw [BitVec.extractLsb'_eq_self])

theorem unpack4_eq (v0 v1 v2 v3 : Code) :
    unpack4 v0 v1 v2 v3 =
      [v0 ++ v1.extractLsb' 4 2, v1.extractLsb' 0 4 ++ v2.extractLsb' 2 4, v2.extractLsb' 0 2 ++ v3] := by
  rw [unpack4, group_byte0, group_byte1, group_byte2]

theorem dTail2_eq (v0 v1 : Code) : dTail2 v0 v1 = [v0 ++ v1.extractLsb' 4 2] := by
  rw [dTail2, group_byte0]

theorem dTail3_eq (v0 v1 v2 : Code) :
    dTail3 v0 v1 v2 = [v0 ++ v1.extractLsb' 4 2, v1.extractLsb' 0 4 ++ v2.extractLsb' 2 4] := by
  rw [dTail3, group_byte0, group_byte1]

/-- Settles O16: each byte of a block is one code and a field of the next, or spans two. -/
theorem unpackFunctionsJoinMsbFirst : Obligations.UnpackFunctionsJoinMsbFirst :=
  fun v0 v1 v2 v3 => ⟨unpack4_eq v0 v1 v2 v3, dTail2_eq v0 v1, dTail3_eq v0 v1 v2⟩

/-- Settles O17: the tails read the upper bits of their last code alone. -/
theorem discardedTailBitsAreIgnored : Obligations.DiscardedTailBitsAreIgnored := by
  refine ⟨fun v0 v1 v1' h => ?_, fun v0 v1 v2 v2' h => ?_, by decide, by decide⟩
  · rw [dTail2_eq, dTail2_eq, h]
  · rw [dTail3_eq, dTail3_eq, h]

/-! ### The round trip (R130) -/

/-- A byte is its upper six bits and its lower two. -/
theorem byte_eq_fields_6_2 (b : Byte) : b.extractLsb' 2 6 ++ b.extractLsb' 0 2 = b :=
  BitVec.extractLsb'_append_extractLsb' (w := 6) (len := 2)

/-- A byte is its upper four bits and its lower four. -/
theorem byte_eq_fields_4_4 (b : Byte) : b.extractLsb' 4 4 ++ b.extractLsb' 0 4 = b :=
  BitVec.extractLsb'_append_extractLsb' (w := 4) (len := 4)

/-- A byte is its upper two bits and its lower six. -/
theorem byte_eq_fields_2_6 (b : Byte) : b.extractLsb' 6 2 ++ b.extractLsb' 0 6 = b :=
  BitVec.extractLsb'_append_extractLsb' (w := 2) (len := 6)

/-- Unpack4 inverts Pack3: each byte finds its two fields in neighbouring codes (R130). -/
theorem decodeCodes_pack3 (b0 b1 b2 : Byte) : decodeCodes (pack3 b0 b1 b2) = [b0, b1, b2] := by
  rw [(packFunctionsSplitMsbFirst b0 b1 b2).1, decodeCodes, unpack4_eq]
  simp only [BitVec.extractLsb'_append_eq_left, BitVec.extractLsb'_append_eq_right, byte_eq_fields_6_2,
    byte_eq_fields_4_4, byte_eq_fields_2_6]
  rfl

/-- DTail2 inverts Tail1 (R130). -/
theorem decodeCodes_tail1 (b0 : Byte) : decodeCodes (tail1 b0) = [b0] := by
  rw [tail1, decodeCodes, dTail2_eq, BitVec.extractLsb'_append_eq_left, byte_eq_fields_6_2]

/-- DTail3 inverts Tail2 (R130). -/
theorem decodeCodes_tail2 (b0 b1 : Byte) : decodeCodes (tail2 b0 b1) = [b0, b1] := by
  rw [tail2, decodeCodes, dTail3_eq]
  simp only [BitVec.extractLsb'_append_eq_left, BitVec.extractLsb'_append_eq_right, byte_eq_fields_6_2,
    byte_eq_fields_4_4]

theorem decodeCodes_encodeCodes (bs : List Byte) : decodeCodes (encodeCodes bs) = bs := by
  fun_induction encodeCodes bs with
  | case1 b0 b1 b2 rest ih =>
    have hblock : 4 ∣ (pack3 b0 b1 b2).length := Nat.dvd_refl 4
    rw [decodeCodes_append hblock, decodeCodes_pack3, ih]
    rfl
  | case2 b0 b1 => exact decodeCodes_tail2 b0 b1
  | case3 b0 => exact decodeCodes_tail1 b0
  | case4 => rfl

/-- The decode length of an encode length (R130). -/
theorem bytesForDecode_charsForEncode (n : Nat) : bytesForDecode (charsForEncode n) = some n := by
  rw [bytesForDecode_eq_some_iff, charsForEncode]
  omega

/-- A character of the alphabet classifies as its code (R120, R130). -/
theorem classify_encMap (v : Code) : classify (encMap v).toNat = some v := by
  rw [classify_of_lt (encMap v).isLt, BitVec.ofNat_toNat, BitVec.setWidth_eq, decLut_encMap]

/-- A text classifies as a list of codes where each of its characters classifies as its code (R125). -/
theorem classifyAll_eq_some_iff {us : List Nat} {vs : List Code} :
    classifyAll us = some vs ↔ us.map classify = vs.map some := by
  induction us generalizing vs with
  | nil => cases vs <;> simp [classifyAll]
  | cons u us ih =>
    cases vs with
    | nil => cases h : classify u <;> cases hs : classifyAll us <;> simp [classifyAll, h, hs]
    | cons v vs =>
      rw [List.map_cons, List.map_cons, List.cons.injEq, ← ih, classifyAll]
      cases classify u <;> cases classifyAll us <;> simp

/-- Settles O20: the characters of an encoded text classify as its codes, and those decode block by block. -/
theorem decodeInvertsEncode : Obligations.DecodeInvertsEncode := by
  refine ⟨fun bs => ?text, bytesForDecode_charsForEncode, classify_encMap,
    fun b0 b1 b2 => ⟨fun c0 c1 c2 c3 h => ?full, fun c0 c1 h => ?tail1, fun c0 c1 c2 h => ?tail2⟩⟩
  case text =>
    refine decodeText_eq_bytes_iff.2 ⟨?_, encodeCodes bs, ?_, decodeCodes_encodeCodes bs⟩
    · rw [List.length_map, encodeBytes_length]
      exact (bytesForDecode_eq_some_iff.1 (bytesForDecode_charsForEncode bs.length)).1
    · rw [classifyAll_eq_some_iff, encodeBytes, List.map_map, List.map_map]
      exact List.map_congr_left fun v _ => classify_encMap v
  case full => simpa [h, decodeCodes] using decodeCodes_pack3 b0 b1 b2
  case tail1 => simpa [h, decodeCodes] using decodeCodes_tail1 b0
  case tail2 => simpa [h, decodeCodes] using decodeCodes_tail2 b0 b1

end Sys2Proof.Machine
end

section
/-! Scope: the command that starts a decode operation (R126), the unit that IN_DEC takes (R127), and the one branch of
it that faults (R128, R178). -/

namespace Sys2Proof.Machine

/-- Settles O26: each length class of DEC has its effect. -/
theorem decStartsADecodeOperation : Obligations.DecStartsADecodeOperation := by
  intro s n hidle hn
  refine ⟨fun hv hop hlen => ?_, fun hbad => ?_, fun hzero => ?_, fun hclass hsome => ?_⟩
  · rw [State.takenInstr_of_command hidle hv, hop, hlen]
    rfl
  · rw [exec_dec hidle, if_pos hbad, State.respond_eq .invalidLength (Nat.two_pow_pos _)]
  · rw [exec_dec hidle, if_neg (by omega), if_pos hzero, State.respond_eq .ok (Nat.two_pow_pos _)]
  · rw [exec_dec hidle, if_neg hclass, if_neg hsome, State.start_eq .dec hn]

/-- `acceptCode` faults on the one-character tail alone (R127, R128). -/
theorem acceptCode_eq_fault_iff {r : Code} {s : State} {f : Fault} :
    acceptCode r s = .fault f ↔ s.fill = 0 ∧ s.rem = 1 := by
  rcases acceptCode_cases r s with ⟨h3, he⟩ | ⟨h2, -, he⟩ | ⟨h1, -, he⟩ | ⟨h0, hlast, he⟩ | ⟨-, hmore, he⟩
  · simp [he, h3]
  · simp [he, h2]
  · simp [he, h1]
  · cases f
    simp [he, h0, hlast]
  · simp [he, hmore]

/-- A taken IN_DEC faults on a valid character that is a one-character tail (R127, R128). -/
theorem exec_inDec_eq_fault_iff {s : State} (hrun : s.st = .run) (hdec : s.dir = .dec) (hready : s.inReady = true)
    {u : Nat} {f : Fault} :
    exec (.inDec u) s = .fault f ↔ s.fill = 0 ∧ s.rem = 1 ∧ classify u ≠ none := by
  rw [exec_inDec hrun hdec hready]
  cases classify u with
  | none => simp
  | some r => simp [acceptCode_eq_fault_iff]

section

variable {s : State}

/-! The bytes of a block that the code `r` completes or ends (R127). -/

theorem State.block_unpack4 (hdec : s.dir = .dec) (hfill : s.fill = 3) (r : Code) :
    s.block (r.setWidth 8) = unpack4 (s.carry.code 0) (s.carry.code 1) (s.carry.code 2) r := by
  simp [State.block, State.live, hdec, hfill, decodeCodes, Carry.get, Carry.code]

theorem State.block_dTail3 (hdec : s.dir = .dec) (hfill : s.fill = 2) (r : Code) :
    s.block (r.setWidth 8) = dTail3 (s.carry.code 0) (s.carry.code 1) r := by
  simp [State.block, State.live, hdec, hfill, decodeCodes, Carry.get, Carry.code]

theorem State.block_dTail2 (hdec : s.dir = .dec) (hfill : s.fill = 1) (r : Code) :
    s.block (r.setWidth 8) = dTail2 (s.carry.code 0) r := by
  simp [State.block, State.live, hdec, hfill, decodeCodes, Carry.get, Carry.code]

/-- A taken IN_DEC of a valid character is `State.accept`, unless it is the one-character tail (R127). -/
theorem exec_inDec_accept (hrun : s.st = .run) (hdec : s.dir = .dec) (hready : s.inReady = true) {u : Nat} {r : Code}
    (hr : classify u = some r) (htail : ¬(s.fill = 0 ∧ s.rem = 1)) :
    exec (.inDec u) s = .next (s.accept (r.setWidth 8)) := by
  rw [exec_inDec hrun hdec hready, hr]
  exact acceptCode_eq_accept hdec htail r

end

/-- Settles O31: an invalid character raises its error, and a valid one is accepted unless it is the one-character tail;
the branch of R127 says whether it completes the block, and with which bytes. -/
theorem inDecTakesOneCharacter : Obligations.InDecTakesOneCharacter := by
  intro s u hrun hdec hready h1 hrem
  have hemit : s.emitNext = true ↔ s.fill.val = 3 ∨ s.rem = 1 := by
    rw [s.emitNext_iff, hdec, blockSize]
  have hexecEmit {r : Code} (hr : classify u = some r) (hpart : s.fill ≠ 0) (h : s.fill.val = 3 ∨ s.rem = 1) :
      exec (.inDec u) s = .next (s.emitBlock (r.setWidth 8)) := by
    rw [exec_inDec_accept hrun hdec hready hr fun htail => hpart htail.1, State.accept_of_emitNext (hemit.2 h)]
  refine ⟨fun hv hdata => ?taken, fun h => ?empty, fun hbad => ?invalid, fun r hr =>
    ⟨fun h3 => ?full, fun h2 hlast => ?tail3, fun hf hlast => ?tail2, fun h0 hlast => ?tail1, fun hf hmore => ?stored⟩⟩
  case taken =>
    rw [State.takenInstr_of_unit hready hv, hrun, hdec, hdata]
    rfl
  case empty => exact State.outValid_of_emits hready hrun (hemit.2 (h.imp_left (congrArg Fin.val)))
  case invalid =>
    rw [exec_inDec hrun hdec hready, hbad, ← narrow_pred h1 hrem]
    rfl
  case full =>
    rw [hexecEmit hr (by simp [h3]) (.inl (by simp [h3])), State.emitBlock_eq h1 hrem, State.block_unpack4 hdec h3, h3,
      hrun]
    rfl
  case tail3 =>
    rw [hexecEmit hr (by simp [h2]) (.inr hlast), State.emitBlock_eq h1 hrem, State.block_dTail3 hdec h2, h2, hlast]
    rfl
  case tail2 =>
    rw [hexecEmit hr (by simp [hf]) (.inr hlast), State.emitBlock_eq h1 hrem, State.block_dTail2 hdec hf, hf, hlast]
    rfl
  case tail1 => exact (exec_inDec_eq_fault_iff hrun hdec hready).2 ⟨h0, hlast, by simp [hr]⟩
  case stored =>
    have hno : s.emitNext = false := by
      rw [← Bool.not_eq_true, hemit]
      omega
    rw [exec_inDec_accept hrun hdec hready hr fun htail => hmore htail.2, State.accept_of_not_emitNext hno,
      State.store_eq h1 hrem]

/-! ### The fault of a step (R128, R178) -/

theorem afterEdge_eq_fault_iff {b : Bool} {o : Host.Outcome State Fault Refusal} {f : Fault} :
    afterEdge b o = .fault f ↔ o = .fault f := by
  cases o <;> simp [afterEdge]

theorem afterEdge_eq_refused_iff {b : Bool} {o : Host.Outcome State Fault Refusal} {r : Refusal} :
    afterEdge b o = .refused r ↔ o = .refused r := by
  cases o <;> simp [afterEdge]

theorem step_ne_refused (s : State) (r : Refusal) : step s ≠ .refused r := by
  rcases step_cases s with ⟨-, h⟩ | ⟨-, i, -, h⟩ | ⟨-, -, h⟩ <;> rw [h]
  · nofun
  · exact fun he => exec_ne_refused i s.beginEdge r (afterEdge_eq_refused_iff.1 he)
  · nofun

/-- A beat that faults where it is taken is a decode unit (R128). -/
theorem inDec_of_exec_fault {s : State} {i : Instr} {f : Fault} (hi : s.takenInstr = some i)
    (h : exec i s.beginEdge = .fault f) :
    s.inFires = true ∧ s.inReady = true ∧ s.st = .run ∧ s.dir = .dec ∧ i = .inDec s.sampled.inData := by
  rcases State.takenInstr_cases hi with
    ⟨hidle, -, rfl⟩ | ⟨hf, hready, ⟨hrun, henc, rfl⟩ | ⟨hrun, hdec, rfl⟩ | ⟨hdrain, rfl⟩⟩
  · obtain ⟨t, ht, -⟩ := exec_command_cases s.sampled.cmdOp s.sampled.cmdLen s.beginEdge hidle
    simp [ht] at h
  · simp [exec_inEnc (s := s.beginEdge) hrun henc hready] at h
  · exact ⟨hf, hready, hrun, hdec, rfl⟩
  · simp [exec_inDrain (s := s.beginEdge) hdrain] at h

theorem step_eq_fault_iff {s : State} {f : Fault} :
    step s = .fault f ↔ s.resetDriven = false ∧ s.sampled.inValid = true ∧ s.inReady = true ∧ s.st = .run ∧
      s.dir = .dec ∧ s.fill = 0 ∧ s.rem = 1 ∧ classify s.sampled.inData ≠ none := by
  constructor
  · intro h
    rcases step_cases s with ⟨-, he⟩ | ⟨hreset, i, hi, he⟩ | ⟨-, -, he⟩ <;> rw [he] at h
    · cases h
    · rw [afterEdge_eq_fault_iff] at h
      obtain ⟨hf, hready, hrun, hdec, rfl⟩ := inDec_of_exec_fault hi h
      have hvalid : s.sampled.inValid = true := (Bool.and_eq_true_iff.1 hf).1
      have htail := (exec_inDec_eq_fault_iff (s := s.beginEdge) hrun hdec hready).1 h
      exact ⟨hreset, hvalid, hready, hrun, hdec, htail⟩
    · cases h
  · rintro ⟨hreset, hvalid, hready, hrun, hdec, htail⟩
    have htaken : s.takenInstr = some (.inDec s.sampled.inData) := by
      rw [State.takenInstr_of_unit hready hvalid, hrun, hdec]
      rfl
    rw [step_of_takenInstr_some hreset htaken, afterEdge_eq_fault_iff]
    exact (exec_inDec_eq_fault_iff (s := s.beginEdge) hrun hdec hready).2 htail

/-- I6 excludes the one-character tail, and there is no other fault (R36, R128). -/
theorem stepSafe_of_controlInv {s : State} (hc : ControlInv s) : StepSafe s := by
  obtain ⟨-, -, -, -, -, hclass, -⟩ := hc
  cases h : step s with
  | next t => exact ⟨t, h⟩
  | fault f =>
    obtain ⟨-, -, -, hrun, hdec, h0, hlast, -⟩ := step_eq_fault_iff.1 h
    exact absurd (by simp [h0, hlast]) (hclass ⟨hrun, hdec⟩)
  | refused r => exact absurd h (step_ne_refused s r)

/-- Settles O46: a step's fault is IN_DEC's, and I6 excludes the state that it needs. -/
theorem onlyTheUnreachableTailFaults : Obligations.OnlyTheUnreachableTailFaults :=
  fun s => ⟨fun _ => step_eq_fault_iff, step_ne_refused s, stepSafe_of_controlInv⟩

end Sys2Proof.Machine
end

section
/-! Scope: the decode stream, valid and invalid (R129). After the first invalid character the beats stay those of the
full blocks before its block. -/

namespace Sys2Proof.Machine

/-! ### Entries and codes of a decode stream -/

theorem entryOf_dec_eq_none_iff {u : Nat} : entryOf .dec u = none ↔ classify u = none := by simp [entryOf]

/-- The code of a valid character is read back from its FIFO entry (R127). -/
theorem map_entryOf_dec (u : Nat) : (entryOf .dec u).map (BitVec.setWidth 6) = classify u := by
  cases h : classify u <;> simp [entryOf, h]

/-- Where every unit has an entry, every character is valid. -/
theorem classify_ne_none_of_map_entryOf {us : List Nat} {es : List Byte} (h : us.map (entryOf .dec) = es.map some)
    {x : Nat} (hx : x ∈ us) : classify x ≠ none := by
  have hmem : entryOf .dec x ∈ es.map some := h ▸ List.mem_map_of_mem hx
  obtain ⟨b, -, hb⟩ := List.mem_map.1 hmem
  rw [Ne, ← entryOf_dec_eq_none_iff, ← hb]
  nofun

/-- A text of a valid length class with the entries `es` decodes to their output (R125). -/
theorem decodeText_of_map_entryOf {us : List Nat} {es : List Byte} (hclass : us.length % 4 ≠ 1)
    (h : us.map (entryOf .dec) = es.map some) : decodeText us = .bytes (outputOf .dec es) := by
  refine decodeText_eq_bytes_iff.2 ⟨hclass, es.map (BitVec.setWidth 6), classifyAll_eq_some_iff.2 ?_, rfl⟩
  calc us.map classify
      = (us.map (entryOf .dec)).map (Option.map (BitVec.setWidth 6)) := by simp [map_entryOf_dec]
    _ = (es.map some).map (Option.map (BitVec.setWidth 6)) := by rw [h]
    _ = (es.map (BitVec.setWidth 6)).map some := by simp

/-! ### The invariant after an invalid character -/

/-- The units before the first invalid character are `good`, and the beats `bs` carry the full blocks of `good`
(R129 (b)). -/
structure RejectedAfter (good : List Nat) (bs : List (List Byte)) : Prop where
  valid : ∀ y ∈ good, classify y ≠ none
  carried : ∃ es : List Byte, (good.take (4 * (good.length / 4))).map (entryOf .dec) = es.map some ∧
    CarryOutput .dec es bs

/-- In a decode operation: `stat` is OK, or an invalid character was met and is accounted for (R27, R127). -/
def StatAccounts (us : List Nat) (bs : List (List Byte)) (s : State) : Prop :=
  s.stat = .ok ∨ s.stat = .invalidCharacter ∧ ∃ good x rest, us = good ++ x :: rest ∧ classify x = none ∧
    RejectedAfter good (bs ++ s.waiting)

section

variable {s u : State} {n : Nat} {us : List Nat} {bs : List (List Byte)}

/-- Until an invalid character is met, the beats carry the full blocks of the units taken (R37, R127). -/
theorem BeatAccounts.rejectedAfter (h : BeatAccounts .dec us bs s) (hrun : s.st = .run) :
    RejectedAfter us (bs ++ s.waiting) := by
  obtain ⟨whole, hus, hblocks, hcarry⟩ := h.running hrun
  have hwhole : 4 * (us.length / 4) = whole.length := by
    have hlen : us.length = whole.length + s.fill.val := by
      simpa [State.live_length] using congrArg List.length hus
    rw [blockSize] at hblocks
    omega
  refine ⟨fun y => classify_ne_none_of_map_entryOf hus, whole, ?_, hcarry⟩
  rw [hwhole, List.map_take, hus, List.map_append, List.take_left' (List.length_map _)]

/-- The units taken after the first invalid character change nothing, as long as no beat is added. -/
theorem StatAccounts.append (h : StatAccounts us bs s) (hstat : u.stat = s.stat) (hwaiting : u.waiting = s.waiting)
    (xs : List Nat) : StatAccounts (us ++ xs) bs u := by
  rw [StatAccounts, hstat, hwaiting]
  refine h.imp_right fun ⟨hbad, good, x, rest, hus, hx, hrejected⟩ => ⟨hbad, good, x, rest ++ xs, ?_, hx, hrejected⟩
  rw [hus, List.append_assoc, List.cons_append]

/-- An edge of a decode operation in progress, before the output handshake. -/
theorem StatAccounts.opEdge (h : StatAccounts us bs s) (hacc : OpAccounts .dec n us s)
    (hbeats : BeatAccounts .dec us bs s) (he : OpEdge s u) : StatAccounts (us ++ s.unitTaken.toList) bs u := by
  cases he with
  | respond e m rest => exact absurd rest hacc.busy
  | start d m rest _ _ _ => exact absurd rest hacc.busy
  | accept x b run ready taken entry =>
    obtain ⟨-, -, hok, -⟩ := (controlInv_run_iff run).1 hacc.control
    refine .inl ?_
    cases hemit : s.beginEdge.emitNext
    · rwa [State.accept_of_not_emitNext hemit]
    · rwa [State.accept_of_emitNext hemit, State.emitBlock_stat]
  | invalid x run dec taken bad =>
    rw [taken]
    exact .inr ⟨rfl, us, x, [], rfl, bad, hbeats.rejectedAfter run⟩
  | drain x drains taken => exact h.append (by simp) (by simp [State.waiting, State.outUnits]) _
  | finish | wait => exact h.append rfl rfl _

/-- The output handshake moves the waiting beat to the beats taken. -/
theorem StatAccounts.handOver (h : StatAccounts us bs u) (he : OpEdge s u) (hr : s.resetDriven = false) :
    StatAccounts us (bs ++ s.beatTaken.toList) (u.handOver s.outFires) := by
  have hbeats : bs ++ s.beatTaken.toList ++ (u.handOver s.outFires).waiting = bs ++ u.waiting := by
    rw [List.append_assoc, he.beatTaken_append_waiting hr]
  rw [StatAccounts, hbeats, State.handOver_stat]
  exact h

end

/-- The status of a decode operation from the cycle that takes the command until the response, whatever the timing of
the ports. -/
theorem statAccounts_quietRun {s t : State} {n k : Nat} {l : Log} (hc : ControlInv s) (hw : WidthInv s)
    (htaken : s.takenInstr = some (startInstr .dec n)) (h : quietRun (k + 1) s = some (t, l)) :
    StatAccounts l.units l.beats t := by
  induction k generalizing t l with
  | zero =>
    obtain ⟨hreset, hstep, hquiet, -⟩ := quietEdge_eq_some h
    obtain ⟨u, hedge, rfl⟩ := edge_of_step hreset hstep
    rw [htaken] at hedge
    rw [State.handOver_rspValid] at hquiet
    obtain ⟨-, -, -, -, rfl⟩ := hedge.start_of_quiet hquiet
    exact .inl (by simp)
  | succ k ih =>
    obtain ⟨t₀, l₀, hrun, hlast⟩ := quietRun_succ h
    have hacc := opAccounts_quietRun hc hw htaken hrun
    have hbeats := beatAccounts_quietRun hc hw htaken hrun
    obtain ⟨hreset, hstep, -, rfl⟩ := quietEdge_eq_some hlast
    obtain ⟨u, hedge, rfl⟩ := opEdge_of_step hacc.control hreset hstep
    exact ((ih hrun).opEdge hacc hbeats hedge).handOver hedge hreset

/-- A command is taken in IDLE alone (R140). -/
theorem State.idle_of_takenInstr_start {s : State} {d : Dir} {n : Nat} (h : s.takenInstr = some (startInstr d n)) :
    s.st = .idle := by
  rcases State.takenInstr_cases h with ⟨hidle, -⟩ | ⟨-, -, ⟨-, -, hi⟩ | ⟨-, -, hi⟩ | ⟨-, hi⟩⟩
  · exact hidle
  all_goals cases d <;> cases hi

/-- The status at the FIN step of a decode operation: a FIN step is not the edge that takes the command. -/
theorem Answers.statAccounts {s t u : State} {n k : Nat} {l : Log} (h : Answers s k t u l) (hc : ControlInv s)
    (hw : WidthInv s) (htaken : s.takenInstr = some (startInstr .dec n)) (hfin : t.st = .fin) :
    StatAccounts l.units l.beats t := by
  obtain ⟨hrun, -⟩ := h
  cases k with
  | zero =>
    cases hrun
    exact absurd ((State.idle_of_takenInstr_start htaken).symm.trans hfin) (by decide)
  | succ k => exact statAccounts_quietRun hc hw htaken hrun

/-! ### The stream law -/

/-- The index of the first invalid character is the number of characters before it. -/
theorem eq_length_of_first_invalid {good rest : List Nat} {x y j : Nat} (hgood : ∀ z ∈ good, classify z ≠ none)
    (hx : classify x = none) (hy : (good ++ x :: rest)[j]? = some y) (hbad : classify y = none)
    (hfirst : ∀ z ∈ (good ++ x :: rest).take j, classify z ≠ none) : j = good.length := by
  rcases Nat.lt_trichotomy j good.length with hlt | heq | hgt
  · rw [List.getElem?_append_left hlt] at hy
    exact absurd hbad (hgood y (List.mem_of_getElem? hy))
  · exact heq
  · have hmem : x ∈ (good ++ x :: rest).take j := by
      rw [List.take_append]
      exact List.mem_append_right _ (by simp [List.take_cons (Nat.sub_pos_of_lt hgt)])
    exact absurd hx (hfirst x hmem)

/-- R129's beats: three units for each full block, and the tail's. -/
theorem beatLengths_dec (n : Nat) :
    beatLengths .dec n = List.replicate (n / 4) 3 ++ if n % 4 = 0 then [] else [n % 4 - 1] := by
  have htail : 3 * (n % 4) / 4 = n % 4 - 1 := by omega
  rw [beatLengths, blockSize, outUnitCount, outUnitCount, htail]

theorem beatLengths_dec_blocks (q : Nat) : beatLengths .dec (4 * q) = List.replicate q 3 := by
  simp [beatLengths_dec]

/-- Settles O51: at the FIN step every unit is taken and no beat waits. `stat` says whether a character was invalid: if
none was, the beats carry Decode of the stream; if one was, they carry the full blocks before its block. -/
theorem decodeStreamLaw : Obligations.DecodeStreamLaw := by
  intro s t u n k l hc hw _ htaken h0 hclass h
  obtain ⟨hacc, hbeats, hfin, hempty, rfl⟩ := h.accounts (d := .dec) hc hw htaken h0 fun _ => hclass
  have hlen : l.units.length = n := hacc.length_of_fin hfin
  have hstat : StatAccounts l.units l.beats t := h.statAccounts hc hw htaken hfin
  rw [StatAccounts, State.waiting_of_empty hempty, List.append_nil] at hstat
  refine ⟨hlen, by simp, fun hvalid => ?valid, fun j x hx hbad hfirst => ?invalid⟩
  case valid =>
    rcases hstat with hok | ⟨-, good, x, rest, hus, hx, -⟩
    · obtain ⟨es, hes, hcarry⟩ := hbeats.finished hfin hok
      rw [State.waiting_of_empty hempty, List.append_nil] at hcarry
      have hcount : es.length = n := by simpa [hlen] using (congrArg List.length hes).symm
      have hproduced : t.produced = 3 * n / 4 := by rw [hacc.finished hfin hok, hacc.dir, outUnitCount]
      have hfits : 3 * n / 4 < 2 ^ (t.cfg.lenW + 1) := outUnitCount_lt (d := .dec) le_rfl hacc.fits
      refine ⟨?_, ?_, by simpa using hok, ?_⟩
      · rw [decodeText_of_map_entryOf (by rwa [hlen]) hes, hcarry.units]
      · rw [hcarry.lengths, hcount, beatLengths_dec]
      · simp [bytesForDecode_eq_some_iff, hclass, hok, responseLength, hproduced, narrow_eq_self hfits]
    · exact absurd hx (hvalid x (by simp [hus]))
  case invalid =>
    rcases hstat with hok | ⟨hrejected, good, y, rest, hus, hy, hgood, es, hes, hcarry⟩
    · obtain ⟨es, hes, -⟩ := hbeats.finished hfin hok
      exact absurd hbad (classify_ne_none_of_map_entryOf hes (List.mem_of_getElem? hx))
    · rw [hus] at hx hfirst ⊢
      obtain rfl := eq_length_of_first_invalid hgood hy hx hbad hfirst
      have hle : 4 * (good.length / 4) ≤ good.length := Nat.mul_div_le _ _
      have hcount : es.length = 4 * (good.length / 4) := by
        simpa [hle] using (congrArg List.length hes).symm
      rw [List.take_append_of_le_length hle]
      refine ⟨?_, ?_, by simpa using hrejected, ?_⟩
      · rw [decodeText_of_map_entryOf ?_ hes, hcarry.units]
        rw [List.length_take, Nat.min_eq_left hle]
        omega
      · rw [hcarry.lengths, hcount, beatLengths_dec_blocks]
      · simp [hrejected, responseLength, narrow]

end Sys2Proof.Machine
end

section
/-! Scope: the reference stitcher of whole inputs (R149, R150, R152), told once for encode and decode: a function that
works block by block gives the same on a list of chunks as on their concatenation. -/

namespace Sys2Proof.Machine

/-- `f` is what `full` makes of every whole block, in order, and then `tail` of what is left (R103, R125, R149). -/
structure Blockwise {α β : Type} (blk : Nat) (full tail f : List α → List β) : Prop where
  append : ∀ {xs : List α}, blk ∣ xs.length → ∀ ys, f (xs ++ ys) = f xs ++ f ys
  block : ∀ {xs : List α}, xs.length = blk → full xs = f xs
  rest : ∀ {xs : List α}, xs.length < blk → tail xs = f xs

/-- The stitcher after the input `xs`: its output is that of whole blocks, and its buffer is the part of a block that is
left (R149). -/
structure Stitched {α β : Type} (blk : Nat) (f : List α → List β) (xs : List α) (acc : List α × List β) : Prop where
  short : acc.1.length < blk
  split : ∃ whole, xs = whole ++ acc.1 ∧ blk ∣ whole.length ∧ acc.2 = f whole

section

variable {α β : Type} {blk : Nat} {full tail f : List α → List β}

theorem Blockwise.nil (h : Blockwise blk full tail f) : f [] = [] := by
  have happend : f ([] ++ []) = f [] ++ f [] := h.append (xs := []) (Nat.dvd_zero blk) []
  simpa using happend

/-- The first `q` blocks of a list, each through `full`. -/
theorem Blockwise.flatMap_blocks (h : Blockwise blk full tail f) (c : List α) {q : Nat} (hq : blk * q ≤ c.length) :
    (List.range q).flatMap (fun j => full ((c.drop (blk * j)).take blk)) = f (c.take (blk * q)) := by
  induction q with
  | zero => simp [h.nil]
  | succ q ih =>
    rw [Nat.mul_succ] at hq
    have hblocks : (c.take (blk * q)).length = blk * q := by
      rw [List.length_take]
      omega
    have hblock : ((c.drop (blk * q)).take blk).length = blk := by
      rw [List.length_take, List.length_drop]
      omega
    rw [List.range_succ, List.flatMap_append, ih (by omega), List.flatMap_singleton, h.block hblock, Nat.mul_succ,
      List.take_add, h.append (by rw [hblocks]; exact Nat.dvd_mul_right _ _)]

theorem Blockwise.stitched_whole (h : Blockwise blk full tail f) (hpos : 0 < blk) {whole : List α}
    (hwhole : blk ∣ whole.length) (c : List α) :
    Stitched blk f (whole ++ c) (stitchWhole blk full (f whole) c) where
  short := by
    have hmod : c.length - blk * (c.length / blk) = c.length % blk := by
      rw [Nat.mod_def]
    rw [stitchWhole, List.length_drop, hmod]
    exact Nat.mod_lt _ hpos
  split := by
    have hle : blk * (c.length / blk) ≤ c.length := Nat.mul_div_le _ _
    refine ⟨whole ++ c.take (blk * (c.length / blk)), ?_, ?_, ?_⟩
    · rw [stitchWhole, List.append_assoc, List.take_append_drop]
    · rw [List.length_append, List.length_take, Nat.min_eq_left hle]
      exact Nat.dvd_add hwhole (Nat.dvd_mul_right _ _)
    · rw [stitchWhole, h.flatMap_blocks c hle, h.append hwhole]

/-- Step 2 of R149: an empty buffer, a buffer that the chunk fills, and one that it does not. -/
theorem Blockwise.stitched_chunk (h : Blockwise blk full tail f) {xs : List α} {acc : List α × List β}
    (hacc : Stitched blk f xs acc) (c : List α) : Stitched blk f (xs ++ c) (stitchChunk blk full acc c) := by
  obtain ⟨buf, out⟩ := acc
  obtain ⟨hbuf, whole, rfl, hwhole, rfl⟩ := hacc
  have hpos : 0 < blk := Nat.zero_lt_of_lt hbuf
  simp only [stitchChunk] at hbuf ⊢
  split_ifs with hempty hfills
  · obtain rfl : buf = [] := by simpa using hempty
    rw [List.append_nil]
    exact h.stitched_whole hpos hwhole c
  · have hblock : (buf ++ c.take (blk - buf.length)).length = blk := by
      rw [List.length_append, List.length_take]
      omega
    have hwhole' : blk ∣ (whole ++ (buf ++ c.take (blk - buf.length))).length := by
      rw [List.length_append, hblock]
      exact Nat.dvd_add hwhole (Nat.dvd_refl _)
    have hstitched := h.stitched_whole hpos hwhole' (c.drop (blk - buf.length))
    rw [h.append hwhole, ← h.block hblock] at hstitched
    simpa using hstitched
  · refine ⟨?_, whole, List.append_assoc _ _ _, hwhole, rfl⟩
    rw [List.length_append]
    omega

theorem Blockwise.stitched_chunks (h : Blockwise blk full tail f) (chunks : List (List α)) {xs : List α}
    {acc : List α × List β} (hacc : Stitched blk f xs acc) :
    Stitched blk f (xs ++ chunks.flatten) (chunks.foldl (stitchChunk blk full) acc) := by
  induction chunks generalizing xs acc with
  | nil => simpa using hacc
  | cons c cs ih =>
    rw [List.flatten_cons, ← List.append_assoc]
    exact ih (h.stitched_chunk hacc c)

/-- The law of segmentation (R150): the output of whole blocks, and then that of the buffer. -/
theorem Blockwise.stitch_eq (h : Blockwise blk full tail f) (hpos : 0 < blk) (chunks : List (List α)) :
    stitch blk full tail chunks = f chunks.flatten := by
  have hstart : Stitched blk f [] ([], []) := ⟨hpos, [], rfl, Nat.dvd_zero _, h.nil.symm⟩
  obtain ⟨hbuf, whole, hsplit, hwhole, hout⟩ := h.stitched_chunks chunks hstart
  rw [List.nil_append] at hsplit
  rw [stitch, hsplit, h.append hwhole, hout]
  split_ifs with hempty
  · rw [List.isEmpty_iff.1 hempty, h.nil, List.append_nil]
  · rw [h.rest hbuf]

end

theorem blockwise_encode : Blockwise 3 encodeFull encodeTail encodeBytes where
  append := encodeBytes_append
  block {xs} hlen := by
    match xs, hlen with
    | [b0, b1, b2], _ => simp [encodeFull, encodeBytes, encodeCodes]
  rest {xs} hlen := by
    match xs, hlen with
    | [], _ | [b0], _ | [b0, b1], _ => rfl
    | _ :: _ :: _ :: _, hlen =>
      simp only [List.length_cons] at hlen
      omega

theorem blockwise_decode : Blockwise 4 decodeFull decodeTail decodeCodes where
  append := decodeCodes_append
  block {xs} hlen := by
    match xs, hlen with
    | [v0, v1, v2, v3], _ => simp [decodeFull, decodeCodes]
  rest {xs} hlen := by
    match xs, hlen with
    | [], _ | [v0], _ | [v0, v1], _ | [v0, v1, v2], _ => rfl
    | _ :: _ :: _ :: _ :: _, hlen =>
      simp only [List.length_cons] at hlen
      omega

/-- Settles O21: Encode works block by block. -/
theorem segmentedEncodeEqualsContiguous : Obligations.SegmentedEncodeEqualsContiguous :=
  blockwise_encode.stitch_eq (by decide)

theorem classifyAll_append (us us' : List Nat) :
    classifyAll (us ++ us') = (classifyAll us).bind fun vs => (classifyAll us').map (vs ++ ·) := by
  induction us with
  | nil => simp [classifyAll]
  | cons u us ih =>
    rw [List.cons_append, classifyAll, classifyAll, ih]
    cases classify u <;> cases classifyAll us <;> cases classifyAll us' <;> rfl

/-- The characters of the chunks classify as those of the whole text do (R149). -/
theorem classifyAll_flatten (chunks : List (List Nat)) :
    classifyAll chunks.flatten = (classifyChunks chunks).map List.flatten := by
  induction chunks with
  | nil => rfl
  | cons c cs ih =>
    rw [List.flatten_cons, classifyAll_append, ih, classifyChunks]
    cases classifyAll c <;> cases classifyChunks cs <;> rfl

/-- Settles O22: the length and the characters of the chunks are those of the whole, so both errors agree, and the bytes
are decoded block by block. -/
theorem segmentedDecodeEqualsContiguous : Obligations.SegmentedDecodeEqualsContiguous := by
  intro chunks
  rw [stitchDecode, decodeText, List.length_flatten, classifyAll_flatten]
  split_ifs
  · rfl
  · cases classifyChunks chunks with
    | none => rfl
    | some cs => exact congrArg Decoded.bytes (blockwise_decode.stitch_eq (by decide) cs)

end Sys2Proof.Machine
end

section
/-! Scope: which beats the block takes, and what it runs for them (R140, R141, R145, R148, and logs 5 and 9). -/

namespace Sys2Proof.Machine

/-- Settles O28: a beat taken in IDLE is the offered command, and one taken elsewhere is a unit. -/
theorem commandsAreTakenInIdleAlone : Obligations.CommandsAreTakenInIdleAlone := by
  intro s
  refine ⟨s.cmdReady_iff, fun hidle hv => ?selects, fun hbusy n => ?busy⟩
  case selects =>
    rw [State.takenInstr_of_command hidle hv]
    rcases opcode_cases s.sampled.cmdOp with h | h | h | h | h | h | h | h <;> rw [h] <;> rfl
  case busy =>
    cases htaken : s.takenInstr with
    | none => simp
    | some i =>
      rcases State.takenInstr_cases htaken with ⟨hidle, -⟩ | ⟨-, -, ⟨-, -, rfl⟩ | ⟨-, -, rfl⟩ | ⟨-, rfl⟩⟩
      · exact absurd hidle hbusy
      all_goals simp

/-- A command is none of the three readings of a unit (R60, R62). -/
theorem decodeCommand_ne_unit (op : BitVec 3) (n u : Nat) :
    decodeCommand op n ≠ .inEnc u ∧ decodeCommand op n ≠ .inDec u ∧ decodeCommand op n ≠ .inDrain u := by
  rcases opcode_cases op with rfl | rfl | rfl | rfl | rfl | rfl | rfl | rfl <;> exact ⟨nofun, nofun, nofun⟩

/-- A ready block has a reading for a unit (R64, R141). -/
theorem State.decodeUnit_ne_none_of_inReady {s : State} (h : s.inReady = true) (u : Nat) :
    decodeUnit s.st s.dir u ≠ none := by
  rcases s.inReady_iff.1 h with hdrain | ⟨hrun, -⟩
  · simp [hdrain, decodeUnit]
  · cases hd : s.dir <;> simp [hrun, decodeUnit]

/-- Settles O33: a unit that is taken was offered to a ready block. -/
theorem unitsAreTakenWhenReady : Obligations.UnitsAreTakenWhenReady := by
  intro s
  refine ⟨by rw [s.inReady_iff, s.emitNext_iff], fun hready hv => ?taken, fun hbusy u => ?untaken⟩
  case taken =>
    rw [State.takenInstr_of_unit hready hv]
    exact ⟨rfl, State.decodeUnit_ne_none_of_inReady hready _⟩
  case untaken =>
    cases htaken : s.takenInstr with
    | none => simp
    | some i =>
      rcases State.takenInstr_cases htaken with ⟨-, -, rfl⟩ | ⟨-, hready, -⟩
      · simpa using decodeCommand_ne_unit _ _ u
      · simp [hbusy] at hready

/-- Settles O32: the counter `rem` is in its range, so the decrement is exact. -/
theorem inDrainDiscardsOneUnit : Obligations.InDrainDiscardsOneUnit := by
  intro s u hdrain h1 hrem
  have hready : s.inReady = true := s.inReady_iff.2 (.inl hdrain)
  refine ⟨fun hv hdata => ?_, ?_⟩
  · rw [State.takenInstr_of_unit hready hv, hdrain, hdata]
    rfl
  · rw [exec_inDrain hdrain, ← narrow_pred h1 hrem]
    by_cases hlast : s.rem = 1
    · rw [decide_eq_true hlast, if_pos hlast]
      rfl
    · rw [decide_eq_false hlast, if_neg hlast, ← hdrain]
      rfl

/-- A command waits outside IDLE (R140, log 5). -/
theorem onCommand_of_busy {s : State} (h : s.st ≠ .idle) (effect : State) : onCommand s effect = .next s := by
  have hready : ¬ s.cmdReady = true := fun hr => h (s.cmdReady_iff.1 hr)
  rw [onCommand, if_neg hready]

/-- Settles O34: a command waits outside IDLE, and the guard of each unit's meaning fails. -/
theorem untakenTransactionsWait : Obligations.UntakenTransactionsWait := by
  intro s n
  refine ⟨fun hbusy => ?command, fun h => if_neg ?inEnc, fun h => if_neg ?inDec, fun h => if_neg ?inDrain⟩
  case command =>
    have hwait := onCommand_of_busy hbusy
    exact ⟨hwait _, hwait _, hwait _, hwait _, hwait _, hwait _, hwait _, hwait _⟩
  case inEnc =>
    rintro ⟨hrun, henc, hready⟩
    simp [hrun, henc, hready] at h
  case inDec =>
    rintro ⟨hrun, hdec, hready⟩
    simp [hrun, hdec, hready] at h
  case inDrain => exact fun ⟨hdrain, _⟩ => h hdrain

/-- The beat that fires decodes to the transaction that the edge takes, and it is well formed (R61, R62, R64). -/
theorem State.decode_of_fires {s : State} {b : Beat}
    (h : s.sampled.cmdValid = true ∧ s.cmdReady = true ∧
        b = .cmd (commandWord s.cfg s.sampled.cmdOp.toNat s.sampled.cmdLen) ∨
      s.sampled.inValid = true ∧ s.inReady = true ∧ b = .unit s.sampled.inData) :
    ∃ i, s.takenInstr = some i ∧ decode s.cfg s.st s.dir b = .ok i := by
  rcases h with ⟨hv, hready, rfl⟩ | ⟨hv, hready, rfl⟩
  · exact ⟨_, State.takenInstr_of_command (s.cmdReady_iff.1 hready) hv, decode_commandWord _ s.sampled_cmdLen_lt⟩
  · obtain ⟨i, hi⟩ := Option.ne_none_iff_exists'.1 (State.decodeUnit_ne_none_of_inReady hready s.sampled.inData)
    exact ⟨i, by rw [State.takenInstr_of_unit hready hv, hi], decode_unit_eq_ok_iff.2 ⟨s.sampled_inData_lt, hi⟩⟩

/-- Settles O36: the edge takes the transaction that the beat decodes to, and the step is its effect between the end of
the response pulse and the output handshake. -/
theorem stepRunsTheDecodedTransaction : Obligations.StepRunsTheDecodedTransaction := by
  intro s b hreset hfires
  obtain ⟨i, htaken, hdecode⟩ := State.decode_of_fires hfires
  obtain ⟨-, hwf, -⟩ := encodeOfDecodeIsIdentity s.cfg s.st s.dir b i hdecode
  have hstep := step_of_takenInstr_some hreset htaken
  refine ⟨i, hdecode, hwf, fun t ht => ?_, fun r hr => ?_, fun r => exec_ne_refused i s.beginEdge r⟩
  · rw [hstep, show exec i s.beginEdge = .next t from ht]
    rfl
  · rw [hstep, show exec i s.beginEdge = .fault r from hr]
    rfl

/-- A block before which a unit is placed is ready for it (R141, log 9). -/
theorem State.inReady_placeBeat_unit (s : State) (u : Nat) : (s.placeBeat (.unit u)).inReady = true := by
  refine (State.inReady_iff _).2 (.inr ⟨rfl, fun ⟨hvalid, hemit⟩ => ?_⟩)
  have hemit' : State.emitNext { s with st := .run, dir := .enc, rem := max s.rem 1 } = true := hemit
  simp [State.placeBeat, State.readyFor, hemit'] at hvalid

/-- A placed beat is what the coming edge takes, in the reading of RUN with `dir` = ENC (log 9). -/
theorem State.takenInstr_placeBeat {s : State} (hcfg : s.cfg = Config.example16) {b : Beat} {i : Instr}
    (h : decode Config.example16 .run .enc b = .ok i) : (s.placeBeat b).takenInstr = some i := by
  cases b with
  | cmd cw =>
    obtain ⟨op, n, hn, rfl, rfl⟩ := exists_of_decode_cmd h
    have hop : (s.placeBeat (.cmd (commandWord Config.example16 op.toNat n))).sampled.cmdOp = op := by
      change BitVec.ofNat 3 (commandWord Config.example16 op.toNat n / 2 ^ Config.example16.lenW) = op
      rw [commandWord_div _ hn, BitVec.ofNat_toNat, BitVec.setWidth_eq]
    have hlen : (s.placeBeat (.cmd (commandWord Config.example16 op.toNat n))).sampled.cmdLen = n := by
      change narrow s.cfg.lenW (commandWord Config.example16 op.toNat n % 2 ^ Config.example16.lenW) = n
      rw [hcfg, commandWord_mod _ hn, narrow_eq_self hn]
    rw [State.takenInstr_of_command rfl rfl, hop, hlen]
  | unit u =>
    obtain ⟨hu, hread⟩ := decode_unit_eq_ok_iff.1 h
    have hdata : (s.placeBeat (.unit u)).sampled.inData = u := by
      change narrow s.cfg.charW u = u
      rw [hcfg, narrow_eq_self hu]
    rw [State.takenInstr_of_unit (s.inReady_placeBeat_unit u) rfl, hdata]
    exact hread

/-- Settles O8: the placed beat is driven with `rst_n` = 1, and the block is made ready for it. -/
theorem placedWordIsTakenNext : Obligations.PlacedWordIsTakenNext := by
  intro s nbits w i hcfg hword
  rw [State.withFetchWord]
  rw [decodeTableWord] at hword
  refine ⟨by cases tableBeat nbits w <;> rfl, State.takenInstr_placeBeat hcfg ?_⟩
  split at hword
  · cases hword
    assumption
  · cases hword

end Sys2Proof.Machine
end

section
/-! Scope: what every edge with `rst_n` = 1 does to the response, the output register and `st` (R144, R146, R147, R153),
read off the inversion of a step. -/

namespace Sys2Proof.Machine

/-- In FIN no beat is taken (R140, R141). -/
theorem State.takenInstr_of_fin {s : State} (h : s.st = .fin) : s.takenInstr = none :=
  State.takenInstr_eq_none (by simp [State.cmdFires, State.cmdReady, h]) (by simp [State.inFires, State.inReady, h])

theorem responseLength_eq (e : Status) (produced : Nat) : responseLength e produced = if e = .ok then produced else 0 := by
  cases e <;> rfl

/-- The whole state after the FIN step's response, where the count fits `rsp_len` (R146). -/
theorem State.finish_eq {s : State} (h : s.produced < 2 ^ (s.cfg.lenW + 1)) :
    s.finish = { s with st := .idle, rspValid := true, rspStatus := s.stat,
                        rspLen := if s.stat = .ok then s.produced else 0 } := by
  have hfits : responseLength s.stat s.produced < 2 ^ (s.cfg.lenW + 1) := by
    rw [responseLength_eq]
    split
    · exact h
    · exact Nat.two_pow_pos _
  rw [State.finish, State.respond_eq _ hfits, responseLength_eq]

/-- The FIN step with no beat waiting (R146). -/
theorem step_of_fin_empty {s : State} (hreset : s.resetDriven = false) (hfin : s.st = .fin)
    (hempty : s.outValid = false) : step s = .next s.beginEdge.finish := by
  have hdue : s.beginEdge.finStep = s.beginEdge.finish := by simp [State.finStep, State.finFires, hfin, hempty]
  have hfires : s.outFires = false := by simp [State.outFires, hempty]
  rw [step_of_takenInstr_none hreset (State.takenInstr_of_fin hfin), hdue, hfires]
  rfl

/-- In FIN behind a waiting beat only the output handshake happens (R146). -/
theorem step_of_fin_waiting {s : State} (hreset : s.resetDriven = false) (hfin : s.st = .fin)
    (hwaits : s.outValid = true) : step s = .next (s.beginEdge.handOver s.outFires) := by
  rw [step_of_takenInstr_none hreset (State.takenInstr_of_fin hfin), State.finStep_eq_self (s := s.beginEdge)
    (.inr hwaits)]

/-- Settles O37: the edge takes no beat, so the FIN step decides, and it answers where no beat waits. -/
theorem finStepAnswersOnceTheRegisterIsEmpty : Obligations.FinStepAnswersOnceTheRegisterIsEmpty := by
  intro s hreset hfin hproduced
  refine ⟨fun hempty => ?_, fun hwaits => ?_⟩
  · rw [step_of_fin_empty hreset hfin hempty, State.finish_eq (s := s.beginEdge) hproduced]
    rfl
  · rw [step_of_fin_waiting hreset hfin hwaits, State.handOver_eq, State.beginEdge_outValid,
      State.outValid_and_not_outFires, hwaits, Bool.true_and]
    rfl

/-! ### A unit that is taken (R105, R127) -/

theorem acceptByte_st (b : Byte) (s : State) : (acceptByte b s).st = if s.rem = 1 then .fin else s.st := by
  rcases acceptByte_cases b s with ⟨-, he⟩ | ⟨-, hlast, he⟩ | ⟨-, -, hlast, he⟩ | ⟨-, hmore, he⟩ <;> rw [he]
  · simp
  · simp [hlast]
  · simp [hlast]
  · simp [hmore]

theorem acceptByte_rsp (b : Byte) (s : State) :
    (acceptByte b s).rspValid = s.rspValid ∧ (acceptByte b s).rspStatus = s.rspStatus ∧
      (acceptByte b s).rspLen = s.rspLen := by
  rcases acceptByte_cases b s with ⟨-, he⟩ | ⟨-, -, he⟩ | ⟨-, -, -, he⟩ | ⟨-, -, he⟩ <;> rw [he] <;> simp

/-- A byte that does not emit leaves the output register as it is. -/
theorem acceptByte_out {b : Byte} {s : State} (henc : s.dir = .enc) (h : s.emitNext = false) :
    (acceptByte b s).outValid = s.outValid ∧ (acceptByte b s).outData = s.outData ∧
      (acceptByte b s).outCnt = s.outCnt := by
  obtain ⟨hroom, hmore⟩ := State.emitNext_eq_false_iff.1 h
  rw [henc, blockSize] at hroom
  rcases acceptByte_cases b s with ⟨hfull, -⟩ | ⟨-, hlast, -⟩ | ⟨-, -, hlast, -⟩ | ⟨-, -, he⟩
  · exact absurd (congrArg Fin.val hfull) hroom
  · exact absurd hlast hmore
  · exact absurd hlast hmore
  · simp [he]

section

variable {r : Code} {s t : State}

theorem acceptCode_st (h : acceptCode r s = .next t) : t.st = if s.rem = 1 then .fin else s.st := by
  rcases acceptCode_next_cases h with ⟨-, rfl⟩ | ⟨-, hlast, rfl⟩ | ⟨-, hlast, rfl⟩ | ⟨-, hmore, rfl⟩
  · simp
  · simp [hlast]
  · simp [hlast]
  · simp [hmore]

theorem acceptCode_rsp (h : acceptCode r s = .next t) :
    t.rspValid = s.rspValid ∧ t.rspStatus = s.rspStatus ∧ t.rspLen = s.rspLen := by
  rcases acceptCode_next_cases h with ⟨-, rfl⟩ | ⟨-, -, rfl⟩ | ⟨-, -, rfl⟩ | ⟨-, -, rfl⟩ <;> simp

/-- A character that does not emit leaves the output register as it is. -/
theorem acceptCode_out (hdec : s.dir = .dec) (hemit : s.emitNext = false) (h : acceptCode r s = .next t) :
    t.outValid = s.outValid ∧ t.outData = s.outData ∧ t.outCnt = s.outCnt := by
  obtain ⟨hroom, hmore⟩ := State.emitNext_eq_false_iff.1 hemit
  rw [hdec, blockSize] at hroom
  rcases acceptCode_next_cases h with ⟨hfull, -⟩ | ⟨-, hlast, -⟩ | ⟨-, hlast, -⟩ | ⟨-, -, rfl⟩
  · exact absurd (congrArg Fin.val hfull) hroom
  · exact absurd hlast hmore
  · exact absurd hlast hmore
  · simp

end

/-! ### The output register (R144) -/

/-- A ready block with a beat waiting takes no unit that emits (R141). -/
theorem State.emitNext_of_outValid {s : State} (hready : s.inReady = true) (hrun : s.st = .run)
    (hwaits : s.outValid = true) : s.emitNext = false := by
  cases hemit : s.emitNext
  · rfl
  · rw [State.outValid_of_emits hready hrun hemit] at hwaits
    cases hwaits

/-- No rule writes the output register while a beat waits in it: every emitter finds it empty (R141, R144). -/
theorem EdgeOf.out_eq {s u : State} {i : Option Instr} (h : EdgeOf s i u) (hwaits : s.outValid = true) :
    u.outValid = true ∧ u.outData = s.outData ∧ u.outCnt = s.outCnt := by
  rw [← hwaits]
  cases h with
  | byte x run enc ready taken =>
    exact acceptByte_out (s := s.beginEdge) enc (State.emitNext_of_outValid ready run hwaits)
  | code x r t run dec ready taken valid accepted =>
    exact acceptCode_out (s := s.beginEdge) dec (State.emitNext_of_outValid ready run hwaits) accepted
  | drain x drains taken => simp
  | finish fin empty => simp [empty] at hwaits
  | response | startEnc | startDec | invalid | wait => exact ⟨rfl, rfl, rfl⟩

/-- A step reads the ports through `rst_n`, the beat it takes, the output handshake and the rest of the drive alone
(R148). -/
theorem step_congr {s s' : State} (hreset : s.resetDriven = s'.resetDriven) (htaken : s.takenInstr = s'.takenInstr)
    (hout : s.outFires = s'.outFires) (hbegin : s.beginEdge = s'.beginEdge) (hedge : s.resetEdge = s'.resetEdge) :
    step s = step s' := by
  rw [step, step, clockEdge, clockEdge, hreset, htaken, hout, hbegin, hedge]

/-- Settles O38: an edge leaves a waiting beat to the handshake, which writes `out_valid` alone; with no beat waiting
there is no handshake for `out_ready` to make. -/
theorem waitingBeatIsHeldUntilTaken : Obligations.WaitingBeatIsHeldUntilTaken := by
  refine ⟨fun s t hreset hwaits hstep => ?held, fun s i rest ready hinputs hempty => ?empty⟩
  case held =>
    obtain ⟨u, hedge, rfl⟩ := edge_of_step hreset hstep
    obtain ⟨hvalid, hdata, hcnt⟩ := hedge.out_eq hwaits
    have hfires : s.outFires = s.sampled.outReady := by rw [State.outFires, hwaits, Bool.true_and]
    simp [hvalid, hdata, hcnt, hfires]
  case empty =>
    obtain ⟨cfg, st, dir, rem, fill, carry, stat, produced, outValid, outData, outCnt, rspValid, rspStatus, rspLen,
      inputs, cycle⟩ := s
    cases hinputs
    cases hempty
    exact step_congr rfl rfl rfl rfl rfl

/-! ### The response (R147) -/

/-- An edge before the output handshake: it answers where a command answers at once or the FIN step is due, and where it
does not answer it leaves the last response. -/
theorem EdgeOf.rsp_iff {s u : State} {i : Option Instr} (h : EdgeOf s i u) :
    (u.rspValid = true ↔ (∃ j, i = some j ∧ AnswersAtOnce j) ∨ s.st = .fin ∧ s.outValid = false) ∧
    (u.rspValid = false → u.rspStatus = s.rspStatus ∧ u.rspLen = s.rspLen) := by
  cases h with
  | response j rest answers e m => exact ⟨iff_of_true rfl (.inl ⟨j, rfl, answers⟩), nofun⟩
  | finish fin empty => exact ⟨iff_of_true rfl (.inr ⟨fin, empty⟩), nofun⟩
  | startEnc n rest nonempty fits => exact ⟨by simp [AnswersAtOnce, rest, nonempty], fun _ => ⟨rfl, rfl⟩⟩
  | startDec n rest nonempty valid fits => exact ⟨by simp [AnswersAtOnce, rest, nonempty, valid], fun _ => ⟨rfl, rfl⟩⟩
  | byte x run enc ready taken =>
    obtain ⟨hvalid, hrsp⟩ := acceptByte_rsp (unitByte x) s.beginEdge
    exact ⟨by simp [hvalid, AnswersAtOnce, run], fun _ => hrsp⟩
  | code x r t run dec ready taken valid accepted =>
    obtain ⟨hvalid, hrsp⟩ := acceptCode_rsp accepted
    exact ⟨by simp [hvalid, AnswersAtOnce, run], fun _ => hrsp⟩
  | invalid x run dec ready taken bad => exact ⟨by simp [State.raiseError, AnswersAtOnce, run], fun _ => ⟨rfl, rfl⟩⟩
  | drain x drains taken => exact ⟨by simp [AnswersAtOnce, drains], fun _ => by simp⟩
  | wait still =>
    have hundue : ¬(s.st = .fin ∧ s.outValid = false) := fun ⟨hfin, hempty⟩ => by simp [hfin, hempty] at still
    exact ⟨by simp [hundue], fun _ => ⟨rfl, rfl⟩⟩

/-- Settles O39: the edge's response, which the output handshake does not touch. -/
theorem responseIsAOneCyclePulse : Obligations.ResponseIsAOneCyclePulse := by
  intro s t hreset hstep
  obtain ⟨u, hedge, rfl⟩ := edge_of_step hreset hstep
  obtain ⟨hvalid, hheld⟩ := hedge.rsp_iff
  rw [State.handOver_rspValid, State.handOver_rspStatus, State.handOver_rspLen]
  refine ⟨hvalid.trans (or_congr_left ?_), hheld⟩
  cases s.takenInstr <;> simp [AnswersAtOnce]

/-! ### The control state (R153) -/

/-- A taken ENC or DEC of a valid nonzero length enters RUN (R104, R126). -/
theorem EdgeOf.run_of_start {s u : State} {d : Dir} {n : Nat} (h : EdgeOf s (some (startInstr d n)) u) (h0 : n ≠ 0)
    (hv : d = .dec → n % 4 ≠ 1) : u.st = .run := by
  obtain ⟨-, -, -, -, rfl⟩ := h.start_of_quiet (h.quiet_of_start h0 hv)
  rfl

section

variable {s u : State} {i : Option Instr}

/-- IDLE is left for RUN alone, on a taken ENC or DEC of a valid nonzero length. -/
theorem EdgeOf.start_of_leaves_idle (h : EdgeOf s i u) (hidle : s.st = .idle) (hleaves : u.st ≠ .idle) :
    u.st = .run ∧ ∃ n, n ≠ 0 ∧ (i = some (.enc n) ∨ i = some (.dec n) ∧ n % 4 ≠ 1) := by
  cases h with
  | startEnc n rest nonempty fits => exact ⟨rfl, n, nonempty, .inl rfl⟩
  | startDec n rest nonempty valid fits => exact ⟨rfl, n, nonempty, .inr ⟨rfl, valid⟩⟩
  | response | wait => exact absurd hidle hleaves
  | byte _ run | invalid _ run | code _ _ _ run => simp [hidle] at run
  | drain _ drains => simp [hidle] at drains
  | finish fin => simp [hidle] at fin

theorem EdgeOf.st_of_run (h : EdgeOf s i u) (hi : i = none → s.unitTaken = none) (hrun : s.st = .run) :
    u.st = if s.unitTaken = none then .run else if s.rem = 1 then .fin
      else if s.dir = .dec ∧ s.unitTaken.bind classify = none then .drain else .run := by
  cases h with
  | byte x run enc ready taken => simp [acceptByte_st, taken, enc, run]
  | invalid x run dec ready taken bad =>
    change (if s.rem = 1 then Ctl.fin else Ctl.drain) = _
    simp [taken, dec, bad]
  | code x r t run dec ready taken valid accepted => simp [acceptCode_st accepted, taken, valid, run]
  | wait still => simpa [hi rfl] using hrun
  | response _ rest | startEnc _ rest | startDec _ rest => simp [hrun] at rest
  | drain _ drains => simp [hrun] at drains
  | finish fin => simp [hrun] at fin

theorem EdgeOf.st_of_drain (h : EdgeOf s i u) (hi : i = none → s.unitTaken = none) (hdrain : s.st = .drain) :
    u.st = if s.unitTaken ≠ none ∧ s.rem = 1 then .fin else .drain := by
  cases h with
  | drain x drains taken => simp [taken, drains]
  | wait still => simpa [hi rfl] using hdrain
  | response _ rest | startEnc _ rest | startDec _ rest => simp [hdrain] at rest
  | byte _ run | invalid _ run | code _ _ _ run => simp [hdrain] at run
  | finish fin => simp [hdrain] at fin

theorem EdgeOf.st_of_fin (h : EdgeOf s i u) (hfin : s.st = .fin) :
    u.st = if s.outValid = false then .idle else .fin := by
  cases h with
  | finish fin empty => simp [empty]
  | wait still =>
    have hwaits : s.outValid = true := still.resolve_left (not_not_intro hfin)
    simpa [hwaits] using hfin
  | response _ rest | startEnc _ rest | startDec _ rest => simp [hfin] at rest
  | byte _ run | invalid _ run | code _ _ _ run => simp [hfin] at run
  | drain _ drains => simp [hfin] at drains

end

/-- Settles O43: the edges of the graph, state by state; the output handshake does not touch `st`. -/
theorem controlStateGraph : Obligations.ControlStateGraph := by
  intro s t hstep
  refine ⟨fun hreset => ?reset, fun hreset => ?edge⟩
  case reset =>
    rw [step_of_resetDriven hreset] at hstep
    cases hstep
    rfl
  case edge =>
    obtain ⟨u, hedge, rfl⟩ := edge_of_step hreset hstep
    rw [State.handOver_st]
    refine ⟨fun hidle => ⟨fun n h0 htaken => ?_, fun n h0 hv htaken => ?_, hedge.start_of_leaves_idle hidle⟩,
      hedge.st_of_run State.unitTaken_of_takenInstr_none, hedge.st_of_drain State.unitTaken_of_takenInstr_none,
      hedge.st_of_fin⟩
    · rw [htaken] at hedge
      exact hedge.run_of_start (d := .enc) h0 nofun
    · rw [htaken] at hedge
      exact hedge.run_of_start (d := .dec) h0 fun _ => hv

end Sys2Proof.Machine
end

section
/-! Scope: the latency of an operation whose host offers a unit and takes the waiting beat in every cycle (R154, R155,
R212), told once for both directions and from any state of the invariants. -/

namespace Sys2Proof.Machine

/-! ### An answer, from its first cycle -/

/-- From the cycle `s`, `k` quiet cycles lead to one whose edge gives a response with the status `e`. -/
def AnswersIn (s : State) (k : Nat) (e : Status) : Prop := ∃ t u l, Answers s k t u l ∧ u.rspStatus = e

/-- A quiet edge is quiet whatever crossed the ports before it. -/
theorem quietEdge_log {t u : State} {l l' : Log} (h : quietEdge t l = some (u, l')) (l₀ : Log) :
    quietEdge t l₀ = some (u, l₀.after t) := by
  obtain ⟨hreset, hstep, hquiet, -⟩ := quietEdge_eq_some h
  simp [quietEdge, hreset, hstep, hquiet]

section

variable {s s' t : State} (hreset : s.resetDriven = false) (hstep : step s = .next s')

include hreset hstep

/-- A quiet run goes on from its first cycle. -/
theorem quietRun_cons (hquiet : s'.rspValid = false) {k : Nat} {l : Log} (h : quietRun k s' = some (t, l)) :
    ∃ l', quietRun (k + 1) s = some (t, l') := by
  induction k generalizing t l with
  | zero =>
    cases h
    exact ⟨Log.after { units := [], beats := [] } s, by simp [quietRun, quietEdge, hreset, hstep, hquiet]⟩
  | succ k ih =>
    obtain ⟨t₀, l₀, hrun, hlast⟩ := quietRun_succ h
    obtain ⟨l₁, hrun'⟩ := ih hrun
    refine ⟨l₁.after t₀, ?_⟩
    rw [quietRun, hrun']
    exact quietEdge_log hlast l₁

theorem AnswersIn.cons (hquiet : s'.rspValid = false) {k : Nat} {e : Status} (h : AnswersIn s' k e) :
    AnswersIn s (k + 1) e := by
  obtain ⟨t, u, l, ⟨hrun, hanswer⟩, he⟩ := h
  obtain ⟨l', hrun'⟩ := quietRun_cons hreset hstep hquiet hrun
  exact ⟨t, u, l', ⟨hrun', hanswer⟩, he⟩

theorem AnswersIn.now (hrsp : s'.rspValid = true) : AnswersIn s 0 s'.rspStatus :=
  ⟨s, s', _, ⟨rfl, hreset, hstep, hrsp⟩, rfl⟩

end

/-! ### The host's drive -/

/-- The next `k` cycles are all listed, and in each the host offers a unit and takes any beat (R155). -/
def OffersNext (s : State) (k : Nat) : Prop :=
  k ≤ s.inputs.length ∧ ∀ i ∈ s.inputs.take k, Offers i = true

theorem OffersNext.mono {s : State} {j k : Nat} (h : OffersNext s k) (hjk : j ≤ k) : OffersNext s j :=
  ⟨hjk.trans h.1, fun i hi => h.2 i (List.take_subset_take_left _ hjk hi)⟩

/-- The offers after the first listed cycle. -/
theorem offersNext_of_tail {s t : State} {k : Nat} (hlen : k + 1 ≤ s.inputs.length)
    (hoffers : ∀ i ∈ (s.inputs.take (k + 1)).tail, Offers i = true) (ht : t.inputs = s.inputs.tail) :
    OffersNext t k := by
  cases hs : s.inputs with
  | nil => simp [hs] at hlen
  | cons i rest =>
    rw [hs] at hlen hoffers ht
    rw [OffersNext, ht]
    exact ⟨Nat.le_of_succ_le_succ hlen, hoffers⟩

theorem OffersNext.tail {s t : State} {k : Nat} (h : OffersNext s (k + 1)) (ht : t.inputs = s.inputs.tail) :
    OffersNext t k :=
  offersNext_of_tail h.1 (fun i hi => h.2 i (List.mem_of_mem_tail hi)) ht

theorem OffersNext.sampled {s : State} {k : Nat} (h : OffersNext s (k + 1)) :
    s.resetDriven = false ∧ s.sampled.inValid = true ∧ s.sampled.outReady = true := by
  obtain ⟨hlen, hoffers⟩ := h
  cases hs : s.inputs with
  | nil => simp [hs] at hlen
  | cons i rest =>
    have hi : Offers i = true := hoffers i (by simp [hs])
    simpa [Offers, State.resetDriven, State.sampled, hs, and_assoc] using hi

/-- A state of the invariants whose host offers a unit and takes any beat in each of the next `k` cycles. -/
structure Served (s : State) (k : Nat) : Prop where
  control : ControlInv s
  width : WidthInv s
  offers : OffersNext s k

theorem OpEdge.inputs_eq {s u : State} (h : OpEdge s u) : u.inputs = s.inputs.tail := by
  cases h with
  | accept x b run ready taken entry =>
    cases hemit : s.beginEdge.emitNext
    · rw [State.accept_of_not_emitNext hemit]
      rfl
    · rw [State.accept_of_emitNext hemit]
      simp [State.emitBlock]
  | drain x drains taken => simp
  | respond | start | invalid | finish | wait => rfl

section

variable {s : State} {k : Nat}

theorem Served.mono {j : Nat} (h : Served s k) (hjk : j ≤ k) : Served s j := ⟨h.control, h.width, h.offers.mono hjk⟩

/-- A served edge: it gives a next state, a waiting beat is taken, and the host goes on serving. -/
theorem Served.edge (h : Served s (k + 1)) :
    ∃ u, OpEdge s u ∧ step s = .next (u.handOver s.outValid) ∧ Served (u.handOver s.outValid) k := by
  obtain ⟨hreset, -, hready⟩ := h.offers.sampled
  have hfires : s.outFires = s.outValid := by rw [State.outFires, hready, Bool.and_true]
  obtain ⟨t, hstep⟩ := stepSafe_of_controlInv h.control
  obtain ⟨u, hedge, rfl⟩ := opEdge_of_step h.control hreset hstep
  rw [hfires] at hstep
  obtain ⟨hcontrol, hwidth⟩ := controlInvariantIsKept s _ h.control h.width hstep
  refine ⟨u, hedge, hstep, hcontrol, hwidth, h.offers.tail ?_⟩
  rw [State.handOver_inputs, hedge.inputs_eq]

/-- An operation goes on answering from its next cycle. -/
theorem Served.answersIn_succ {u : State} (h : Served s (k + 1)) (hstep : step s = .next (u.handOver s.outValid))
    (hquiet : u.rspValid = false) {j : Nat} {e : Status} (hnext : AnswersIn (u.handOver s.outValid) j e) :
    AnswersIn s (j + 1) e :=
  .cons h.offers.sampled.1 hstep (by rwa [State.handOver_rspValid]) hnext

/-- The offered unit is taken where the block is ready (R141). -/
theorem Served.unitTaken_ne_none (h : Served s (k + 1)) (hready : s.inReady = true) : s.unitTaken ≠ none := by
  obtain ⟨hreset, hv, -⟩ := h.offers.sampled
  rw [State.unitTaken_of_inFires hreset (Bool.and_eq_true_iff.2 ⟨hv, hready⟩)]
  nofun

/-! ### FIN and DRAIN (R145, R146) -/

theorem Served.answersIn_fin_empty (h : Served s (k + 1)) (hfin : s.st = .fin) (hempty : s.outValid = false) :
    AnswersIn s 0 s.stat := by
  obtain ⟨hreset, -⟩ := h.offers.sampled
  exact .now hreset (step_of_fin_empty hreset hfin hempty) rfl

theorem Served.answersIn_fin_waiting (h : Served s (k + 2)) (hfin : s.st = .fin) (hwaits : s.outValid = true) :
    AnswersIn s 1 s.stat := by
  obtain ⟨hreset, -, hready⟩ := h.offers.sampled
  obtain ⟨u, -, hstep, hserved⟩ := h.edge
  have hwait := step_of_fin_waiting hreset hfin hwaits
  have hu : u.handOver s.outValid = s.beginEdge.handOver s.outFires :=
    Host.Outcome.next.inj (hstep.symm.trans hwait)
  rw [hu] at hserved
  have hanswer := hserved.answersIn_fin_empty (by simpa using hfin) (by simp [State.outFires, hready])
  rw [State.handOver_stat] at hanswer
  exact .cons hreset hwait (by simp) hanswer

/-- In DRAIN every cycle discards a unit, and the waiting beat is gone before the last one (R145). -/
theorem Served.answersIn_drain (h : Served s k) (hdrain : s.st = .drain) (hk : s.rem + 1 ≤ k) :
    AnswersIn s s.rem .invalidCharacter := by
  induction k generalizing s with
  | zero => omega
  | succ k ih =>
    obtain ⟨hrem, -, -, hstat, -⟩ := (controlInv_drain_iff hdrain).1 h.control
    obtain ⟨u, hedge, hstep, hserved⟩ := h.edge
    cases hedge with
    | drain x drains taken =>
      have hrem' : ((s.beginEdge.countUnit.endIfLast (s.rem = 1)).handOver s.outValid).rem = s.rem - 1 := by
        rw [State.handOver_rem, State.endIfLast_rem, State.countUnit_rem_eq (s := s.beginEdge) hrem h.width]
        rfl
      have hnext : AnswersIn ((s.beginEdge.countUnit.endIfLast (s.rem = 1)).handOver s.outValid) (s.rem - 1)
          .invalidCharacter := by
        by_cases hlast : s.rem = 1
        · obtain ⟨k, rfl⟩ : ∃ j, k = j + 1 := ⟨k - 1, by omega⟩
          have hfin := hserved.answersIn_fin_empty (by simp [hlast]) (by simp)
          simpa [hlast, hstat] using hfin
        · have hrest := ih hserved (by simp [hlast, hdrain]) (by omega)
          rwa [hrem'] at hrest
      rw [← Nat.sub_add_cancel hrem]
      exact h.answersIn_succ hstep (by simp) hnext
    | wait untaken => exact absurd untaken (h.unitTaken_ne_none (s.inReady_iff.2 (.inl hdrain)))
    | respond _ _ rest | start _ _ rest => simp [hdrain] at rest
    | accept _ _ run | invalid _ run => simp [hdrain] at run
    | finish fin => simp [hdrain] at fin

end

/-! ### RUN (R105, R127, R141, R155, R212) -/

/-- The cycle in which the next unit waits for the beat to be taken (R141). -/
def State.stall (s : State) : Nat := if s.outValid = true ∧ s.emitNext = true then 1 else 0

/-- The cycle that a tail of one unit waits for the beat of the block before it, where that block is still to come
(R212). -/
def State.bubble (s : State) : Nat :=
  if blockSize s.dir < s.fill.val + s.rem ∧ (s.fill.val + s.rem) % blockSize s.dir = 1 then 1 else 0

/-- How many cycles a served operation in RUN needs to take its units: one a unit, and those in which one waits. -/
def State.unitCycles (s : State) : Nat := s.rem + s.stall + s.bubble

/-- How a served operation in RUN ends: with OK, its last beat being taken in the cycle after its last unit, or with
INVALID_CHARACTER right after its last unit (R155). -/
def EndsInTime (s : State) : Prop :=
  AnswersIn s (s.unitCycles + 1) .ok ∨ s.dir = .dec ∧ AnswersIn s s.unitCycles .invalidCharacter

theorem blockSize_cases (d : Dir) : blockSize d = 3 ∨ blockSize d = 4 := by cases d <;> decide

theorem State.stall_of_empty {s : State} (h : s.outValid = false) : s.stall = 0 := by simp [State.stall, h]

theorem State.stall_of_not_emitNext {s : State} (h : s.emitNext = false) : s.stall = 0 := by simp [State.stall, h]

section

variable {s : State}

/-- A decode stream has no tail of one unit (R36 I6). -/
theorem State.bubble_of_dec (hc : ControlInv s) (hrun : s.st = .run) (hdec : s.dir = .dec) : s.bubble = 0 := by
  obtain ⟨-, -, -, hclass, -⟩ := (controlInv_run_iff hrun).1 hc
  simp [State.bubble, hdec, blockSize, hclass hdec]

/-- The last unit has no block before it that is still to come. -/
theorem State.bubble_of_last (hc : ControlInv s) (hrun : s.st = .run) (hlast : s.rem = 1) : s.bubble = 0 := by
  obtain ⟨-, hfill, -⟩ := (controlInv_run_iff hrun).1 hc
  have hpos := blockSize_pos s.dir
  exact if_neg fun ⟨hmore, _⟩ => by omega

/-- A unit that waits costs a cycle. -/
theorem State.unitCycles_stalled (hwaits : s.outValid = true) (hemit : s.emitNext = true) :
    s.unitCycles = (s.beginEdge.handOver s.outValid).unitCycles + 1 := by
  have hstall : s.stall = 1 := if_pos ⟨hwaits, hemit⟩
  have hnext : (s.beginEdge.handOver s.outValid).stall = 0 := State.stall_of_empty (by simp)
  have hbubble : (s.beginEdge.handOver s.outValid).bubble = s.bubble := by simp [State.bubble]
  rw [State.unitCycles, State.unitCycles, hstall, hnext, hbubble, State.handOver_rem, State.beginEdge_rem]
  omega

/-- A stored unit costs its cycle. -/
theorem State.unitCycles_store (hc : ControlInv s) (hw : WidthInv s) (hrun : s.st = .run) (hemit : s.emitNext = false)
    (b : Byte) : s.unitCycles = ((s.store b).handOver s.outValid).unitCycles + 1 := by
  obtain ⟨hrem, -⟩ := (controlInv_run_iff hrun).1 hc
  have hrem' := State.store_rem hrem hw b
  have hfill := State.store_fill (fill_lt_of_not_emitNext hc hrun hemit) b
  have hnext : ((s.store b).handOver s.outValid).stall = 0 := by
    refine State.stall_of_empty ?_
    rw [State.handOver_outValid]
    exact Bool.and_not_self s.outValid
  have hsum : (s.store b).fill.val + (s.store b).rem = s.fill.val + s.rem := by omega
  have hbubble : ((s.store b).handOver s.outValid).bubble = s.bubble := by
    simp only [State.bubble, State.handOver_fill, State.handOver_rem, State.handOver_dir, hsum]
    rfl
  rw [State.unitCycles, State.unitCycles, State.stall_of_not_emitNext hemit, hnext, hbubble, State.handOver_rem, hrem']
  omega

/-- A stream of `r` units has a tail of one unit if it is that unit alone, or if a block comes before it. -/
theorem lone_tail_cases {blk : Nat} (hblk : blk = 3 ∨ blk = 4) (r : Nat) :
    ((if r = 1 then 1 else 0) + if blk < r ∧ r % blk = 1 then 1 else 0) = if r % blk = 1 then 1 else 0 := by
  rcases hblk with rfl | rfl <;> split_ifs <;> omega

/-- The unit that completes a block costs its cycle; the tail unit that comes alone after it now waits for the beat. -/
theorem State.unitCycles_emitBlock (hc : ControlInv s) (hw : WidthInv s) (hrun : s.st = .run)
    (hempty : s.outValid = false) (hemit : s.emitNext = true) (hmore : s.rem ≠ 1) (b : Byte) :
    s.unitCycles = ((s.emitBlock b).handOver s.outValid).unitCycles + 1 := by
  have hkept : (s.emitBlock b).handOver s.outValid = s.emitBlock b := by
    rw [hempty]
    rfl
  obtain ⟨hrem, -⟩ := (controlInv_run_iff hrun).1 hc
  have hblk := blockSize_cases s.dir
  have hrem' := State.emitBlock_rem hrem hw b
  have hstall : (s.emitBlock b).stall = if s.rem - 1 = 1 then 1 else 0 := by
    have hwaits : (s.emitBlock b).outValid = true := by simp [State.emitBlock]
    have hroom : (0 : Fin 4).val ≠ blockSize s.dir - 1 := by
      rw [Fin.val_zero]
      omega
    have hnext : (s.emitBlock b).emitNext = true ↔ s.rem - 1 = 1 := by
      rw [State.emitNext_iff, State.emitBlock_fill, State.emitBlock_dir, hrem']
      exact or_iff_right hroom
    simp only [State.stall, hwaits, hnext, true_and]
  have hbubble' : (s.emitBlock b).bubble =
      if blockSize s.dir < s.rem - 1 ∧ (s.rem - 1) % blockSize s.dir = 1 then 1 else 0 := by
    simp only [State.bubble, State.emitBlock_fill, State.emitBlock_dir, hrem', Fin.val_zero, Nat.zero_add]
  have hbubble : s.bubble = if (s.rem - 1) % blockSize s.dir = 1 then 1 else 0 := by
    have hfull : s.fill.val = blockSize s.dir - 1 := (s.emitNext_iff.1 hemit).resolve_right hmore
    have hsum : s.fill.val + s.rem = blockSize s.dir + (s.rem - 1) := by omega
    have hlong : blockSize s.dir < blockSize s.dir + (s.rem - 1) := by omega
    simp only [State.bubble, hsum, hlong, true_and, Nat.add_mod_left]
  have hsplit : (s.emitBlock b).stall + (s.emitBlock b).bubble = s.bubble := by
    rw [hstall, hbubble', hbubble, lone_tail_cases hblk]
  rw [hkept, State.unitCycles, State.unitCycles, State.stall_of_empty hempty, hrem', ← hsplit]
  omega

/-- A unit is taken by a ready block alone (R141). -/
theorem State.inReady_of_unitTaken {x : Nat} (h : s.unitTaken = some x) : s.inReady = true := by
  by_contra hbusy
  have hfires : s.inFires = false := s.inFires_eq_false_iff.2 (.inr (Bool.eq_false_iff.2 hbusy))
  rw [State.unitTaken_eq_none hfires] at h
  cases h

/-- A ready block takes the next unit at once (R141). -/
theorem State.stall_of_inReady (hready : s.inReady = true) (hrun : s.st = .run) : s.stall = 0 :=
  if_neg fun ⟨hwaits, hemit⟩ => by simp [State.emitNext_of_outValid hready hrun hwaits] at hemit

/-! How an operation comes from one cycle of RUN to its end. -/

variable {k : Nat} {u : State}

/-- An edge that stays in RUN. -/
theorem Served.endsInTime_succ (h : Served s (k + 1)) (hstep : step s = .next (u.handOver s.outValid))
    (hquiet : u.rspValid = false) (hdir : u.dir = s.dir)
    (hcycles : s.unitCycles = (u.handOver s.outValid).unitCycles + 1) (hnext : EndsInTime (u.handOver s.outValid)) :
    EndsInTime s := by
  rw [EndsInTime, State.handOver_dir, hdir] at hnext
  rw [EndsInTime, hcycles]
  exact hnext.imp (h.answersIn_succ hstep hquiet) (And.imp_right (h.answersIn_succ hstep hquiet))

/-- The last unit, valid: its beat is taken in the next cycle, and the FIN step follows (R146). -/
theorem Served.endsInTime_last (h : Served s (k + 3)) (hrun : s.st = .run) (hempty : s.outValid = false)
    (hlast : s.rem = 1) {b : Byte} (hstep : step s = .next ((s.beginEdge.emitBlock b).handOver s.outValid))
    (hserved : Served ((s.beginEdge.emitBlock b).handOver s.outValid) (k + 2)) : EndsInTime s := by
  obtain ⟨-, -, hok, -⟩ := (controlInv_run_iff hrun).1 h.control
  have hcycles : s.unitCycles = 1 := by
    rw [State.unitCycles, State.stall_of_empty hempty, State.bubble_of_last h.control hrun hlast, hlast]
  have hanswer := hserved.answersIn_fin_waiting (by simp [State.emitBlock_st, hlast])
    (by simp [State.emitBlock, hempty])
  rw [State.handOver_stat, State.emitBlock_stat, State.beginEdge_stat, hok] at hanswer
  rw [EndsInTime, hcycles]
  exact .inl (h.answersIn_succ hstep (by simp [State.emitBlock]) hanswer)

/-- An invalid character: the units after it are discarded, one a cycle, and no beat waits at the end (R127, R145). -/
theorem Served.endsInTime_invalid (h : Served s (k + 1)) (hrun : s.st = .run) (hdec : s.dir = .dec)
    (hready : s.inReady = true) (hk : s.rem + 1 ≤ k)
    (hstep : step s = .next ((s.beginEdge.raiseError .invalidCharacter).countUnit.handOver s.outValid))
    (hserved : Served ((s.beginEdge.raiseError .invalidCharacter).countUnit.handOver s.outValid) k) :
    EndsInTime s := by
  obtain ⟨hrem, -⟩ := (controlInv_run_iff hrun).1 h.control
  have hcycles : s.unitCycles = s.rem := by
    rw [State.unitCycles, State.stall_of_inReady hready hrun, State.bubble_of_dec h.control hrun hdec]
    rfl
  have hrem' : ((s.beginEdge.raiseError .invalidCharacter).countUnit.handOver s.outValid).rem = s.rem - 1 := by
    rw [State.handOver_rem]
    exact State.countUnit_rem_eq (s := s.beginEdge) hrem h.width
  have hst : ((s.beginEdge.raiseError .invalidCharacter).countUnit.handOver s.outValid).st =
      if s.rem = 1 then .fin else .drain := by
    rw [State.handOver_st]
    rfl
  have hempty : ((s.beginEdge.raiseError .invalidCharacter).countUnit.handOver s.outValid).outValid = false := by
    rw [State.handOver_outValid]
    exact Bool.and_not_self s.outValid
  have hanswer : AnswersIn ((s.beginEdge.raiseError .invalidCharacter).countUnit.handOver s.outValid) (s.rem - 1)
      .invalidCharacter := by
    by_cases hlast : s.rem = 1
    · rw [if_pos hlast] at hst
      have hfin := (hserved.mono hk).answersIn_fin_empty hst hempty
      rw [State.handOver_stat] at hfin
      rw [hlast]
      exact hfin
    · rw [if_neg hlast] at hst
      have hdrain := hserved.answersIn_drain hst (by omega)
      rwa [hrem'] at hdrain
  rw [EndsInTime, hcycles, ← Nat.sub_add_cancel hrem]
  exact .inr ⟨hdec, h.answersIn_succ hstep rfl hanswer⟩

/-- Every served operation in RUN ends in time. -/
theorem Served.endsInTime (h : Served s k) (hrun : s.st = .run) (hk : s.unitCycles + 2 ≤ k) : EndsInTime s := by
  induction k generalizing s with
  | zero => omega
  | succ k ih =>
    have hrem : s.rem ≤ s.unitCycles := (Nat.le_add_right _ _).trans (Nat.le_add_right _ _)
    obtain ⟨u, hedge, hstep, hserved⟩ := h.edge
    cases hedge with
    | accept x b run ready taken entry =>
      cases hemit : s.emitNext
      · rw [State.accept_of_not_emitNext (s := s.beginEdge) hemit] at hstep hserved
        have hcycles : s.unitCycles = ((s.beginEdge.store b).handOver s.outValid).unitCycles + 1 :=
          State.unitCycles_store (s := s.beginEdge) h.control h.width hrun hemit b
        exact h.endsInTime_succ hstep rfl rfl hcycles
          (ih hserved (by rw [State.handOver_st]; exact hrun) (by omega))
      · rw [State.accept_of_emitNext (s := s.beginEdge) hemit] at hstep hserved
        have hempty : s.outValid = false := State.outValid_of_emits ready hrun hemit
        by_cases hlast : s.rem = 1
        · obtain ⟨j, rfl⟩ : ∃ j, k = j + 2 := ⟨k - 2, by omega⟩
          exact h.endsInTime_last hrun hempty hlast hstep hserved
        · have hcycles : s.unitCycles = ((s.beginEdge.emitBlock b).handOver s.outValid).unitCycles + 1 :=
            State.unitCycles_emitBlock (s := s.beginEdge) h.control h.width hrun hempty hemit hlast b
          exact h.endsInTime_succ hstep (by simp [State.emitBlock]) (by simp) hcycles
            (ih hserved (by simp [State.emitBlock_st, hlast, hrun]) (by omega))
    | invalid x run dec taken bad =>
      have hready : s.inReady = true := State.inReady_of_unitTaken taken
      exact h.endsInTime_invalid hrun dec hready (by omega) hstep hserved
    | wait untaken =>
      obtain ⟨hwaits, hemit⟩ : s.outValid = true ∧ s.emitNext = true := by
        by_contra hready
        exact h.unitTaken_ne_none (s.inReady_iff.2 (.inr ⟨hrun, hready⟩)) untaken
      have hcycles := State.unitCycles_stalled hwaits hemit
      exact h.endsInTime_succ hstep rfl rfl hcycles (ih hserved (by simpa using hrun) (by omega))
    | respond _ _ rest | start _ _ rest => simp [hrun] at rest
    | drain _ drains => simp [hrun] at drains
    | finish fin => simp [hrun] at fin

end

/-! ### Whole operations -/

/-- The cycle after a command that starts an operation: a served cycle in RUN, with all units to come and no beat
waiting (R104, R126). -/
theorem exists_served_start {s : State} {d : Dir} {n k : Nat} (hc : ControlInv s) (hw : WidthInv s)
    (hreset : s.resetDriven = false) (htaken : s.takenInstr = some (startInstr d n)) (h0 : n ≠ 0)
    (hv : d = .dec → n % 4 ≠ 1) (hoffers : OffersFor s (k + 1)) :
    ∃ t, step s = .next t ∧ t.rspValid = false ∧ Served t k ∧ t.st = .run ∧ t.dir = d ∧
      t.unitCycles = n + if blockSize d < n ∧ n % blockSize d = 1 then 1 else 0 := by
  obtain ⟨t, hstep⟩ := stepSafe_of_controlInv hc
  obtain ⟨hcontrol, hwidth⟩ := controlInvariantIsKept s t hc hw hstep
  obtain ⟨u, hedge, rfl⟩ := edge_of_step hreset hstep
  rw [htaken] at hedge
  have hquiet := hedge.quiet_of_start h0 hv
  obtain ⟨hidle, -, hn, -, rfl⟩ := hedge.start_of_quiet hquiet
  obtain ⟨-, -, hempty⟩ := (controlInv_idle_iff hidle).1 hc
  have hinputs : ((s.beginEdge.start d n).handOver s.outFires).inputs = s.inputs.tail := by
    rw [State.handOver_inputs]
    rfl
  have hrem : (s.beginEdge.start d n).rem = n := narrow_eq_self hn
  have hstall : ((s.beginEdge.start d n).handOver s.outFires).stall = 0 := State.stall_of_empty (by simp [hempty])
  refine ⟨_, hstep, by rwa [State.handOver_rspValid],
    ⟨hcontrol, hwidth, offersNext_of_tail hoffers.1 hoffers.2 hinputs⟩, by simp, by simp, ?_⟩
  rw [State.unitCycles, hstall, State.bubble]
  simp [-State.start_rem, hrem]

/-- Settles O52: an encode operation does not end with INVALID_CHARACTER, so it ends in time with OK. -/
theorem encodeLatency : Obligations.EncodeLatency := by
  intro s n hc hw hreset htaken h0 hoffers
  obtain ⟨t, hstep, hquiet, hserved, hrun, hdir, hcycles⟩ :=
    exists_served_start (d := .enc) hc hw hreset htaken h0 nofun hoffers
  have hbubble : (blockSize .enc < n ∧ n % blockSize .enc = 1) ↔ 4 ≤ n ∧ n % 3 = 1 := Iff.rfl
  simp only [hbubble] at hcycles
  rcases hserved.endsInTime hrun (by split_ifs at hcycles <;> omega) with hok | ⟨hdec, -⟩
  · obtain ⟨t', u, l, hanswers, -⟩ := AnswersIn.cons hreset hstep hquiet hok
    refine ⟨t', u, l, ?_⟩
    rw [hcycles] at hanswers
    split_ifs at hanswers ⊢ <;> exact hanswers
  · simp [hdir] at hdec

/-- Settles O53: a decode stream has no tail of one unit, so no unit waits. -/
theorem decodeLatency : Obligations.DecodeLatency := by
  intro s n hc hw hreset htaken h0 hclass hoffers
  obtain ⟨t, hstep, hquiet, hserved, hrun, -, hcycles⟩ :=
    exists_served_start (d := .dec) hc hw hreset htaken h0 (fun _ => hclass) hoffers
  have hbubble : ¬(blockSize .dec < n ∧ n % blockSize .dec = 1) := fun h => hclass h.2
  rw [if_neg hbubble] at hcycles
  have hends := hserved.endsInTime hrun (by omega)
  rw [EndsInTime, hcycles] at hends
  rcases hends with hok | ⟨-, hbad⟩
  · obtain ⟨t', u, l, hanswers, he⟩ := AnswersIn.cons hreset hstep hquiet hok
    exact ⟨_, t', u, l, hanswers, .inl ⟨he, rfl⟩⟩
  · obtain ⟨t', u, l, hanswers, he⟩ := AnswersIn.cons hreset hstep hquiet hbad
    exact ⟨_, t', u, l, hanswers, .inr ⟨he, rfl⟩⟩

/-- A unit takes two cycles at most, all of them together: the last one waits for no tail of one unit. -/
theorem State.unitCycles_le {s : State} (hc : ControlInv s) (hrun : s.st = .run) : s.unitCycles ≤ 2 * s.rem := by
  obtain ⟨hrem, -⟩ := (controlInv_run_iff hrun).1 hc
  have hstall : s.stall ≤ 1 := by unfold State.stall; split <;> decide
  have hbubble : s.bubble ≤ 1 := by unfold State.bubble; split <;> decide
  have hlast := State.bubble_of_last hc hrun
  rw [State.unitCycles]
  omega

/-- Settles O54: by the state of the operation, from the bound on the cycles that its units take. -/
theorem operationEndsWhenEveryCycleOffersAndTakes : Obligations.OperationEndsWhenEveryCycleOffersAndTakes := by
  intro s hc hw hbusy hlen hoffers
  have hserved : Served s (2 * s.rem + 2) := ⟨hc, hw, hlen, hoffers⟩
  suffices h : ∃ k e, k ≤ 2 * s.rem + 1 ∧ AnswersIn s k e by
    obtain ⟨k, e, hk, t, u, l, hanswers, -⟩ := h
    exact ⟨k, t, u, l, hk, hanswers⟩
  cases hst : s.st with
  | idle => exact absurd hst hbusy
  | run =>
    have hcycles := State.unitCycles_le hc hst
    rcases hserved.endsInTime hst (by omega) with hok | ⟨-, hbad⟩
    · exact ⟨_, _, by omega, hok⟩
    · exact ⟨_, _, by omega, hbad⟩
  | drain => exact ⟨_, _, by omega, hserved.answersIn_drain hst (by omega)⟩
  | fin =>
    cases hv : s.outValid
    · exact ⟨_, _, Nat.zero_le _, hserved.answersIn_fin_empty hst hv⟩
    · exact ⟨_, _, Nat.le_add_left _ _, hserved.answersIn_fin_waiting hst hv⟩

end Sys2Proof.Machine
end

section
/-! Scope: the reserved opcodes (R173), and what a command reads of the state that it meets (R176). -/

namespace Sys2Proof.Machine

/-- The whole state after BAD_COMMAND: its length 0 fits `rsp_len` (R173). -/
theorem badCommand_eq {s : State} (hidle : s.st = .idle) :
    badCommand s = .next { s with rspValid := true, rspStatus := .badCommand, rspLen := 0 } := by
  rw [badCommand_idle hidle, State.respond_eq .badCommand (Nat.two_pow_pos _)]

/-- Settles O27: each reserved opcode runs `badCommand`, which does not see the length operand. -/
theorem reservedOpcodesAnswerBadCommand : Obligations.ReservedOpcodesAnswerBadCommand := by
  intro s n hidle
  have hbad := badCommand_eq hidle
  refine ⟨fun hv hlen => ?_, hbad, hbad, hbad, hbad⟩
  rw [State.takenInstr_of_command hidle hv, hlen]
  refine ⟨?_, ?_, ?_, ?_⟩ <;> exact fun hop => by rw [hop]; rfl

/-- The opcode and the length alone choose what a command does where it is taken: one response, or the start of one
operation (R95, R96, R104, R126, R173). -/
theorem exec_command_uniform (op : BitVec 3) (n : Nat) :
    (∃ e m, ∀ s : State, s.st = .idle → exec (decodeCommand op n) s = .next (s.respond e m)) ∨
    (∃ d, ∀ s : State, s.st = .idle → exec (decodeCommand op n) s = .next (s.start d n)) := by
  have hreserved : ∃ e m, ∀ s : State, s.st = .idle → badCommand s = .next (s.respond e m) :=
    ⟨_, _, fun _ => badCommand_idle⟩
  unfold decodeCommand
  split
  case h_2 => exact .inl ⟨_, _, fun _ h => exec_lenEnc h n⟩
  case h_3 =>
    by_cases hbad : n % 4 = 1
    · exact .inl ⟨_, _, fun _ h => by rw [exec_lenDec h, if_pos hbad]⟩
    · exact .inl ⟨_, _, fun _ h => by rw [exec_lenDec h, if_neg hbad]⟩
  case h_4 =>
    by_cases hzero : n = 0
    · exact .inl ⟨_, _, fun _ h => by rw [exec_enc h, if_pos hzero]⟩
    · exact .inr ⟨_, fun _ h => by rw [exec_enc h, if_neg hzero]⟩
  case h_5 =>
    by_cases hbad : n % 4 = 1
    · exact .inl ⟨_, _, fun _ h => by rw [exec_dec h, if_pos hbad]⟩
    · by_cases hzero : n = 0
      · exact .inl ⟨_, _, fun _ h => by rw [exec_dec h, if_neg hbad, if_pos hzero]⟩
      · exact .inr ⟨_, fun _ h => by rw [exec_dec h, if_neg hbad, if_neg hzero]⟩
  all_goals exact .inl hreserved

/-- Settles O29: both blocks give the same response or start the same operation, and either reads the widths alone. -/
theorem commandsDependOnNothingLeftBehind : Obligations.CommandsDependOnNothingLeftBehind := by
  intro s s' op n hidle hidle' hcfg
  rcases exec_command_uniform op n with ⟨e, m, hrespond⟩ | ⟨d, hstart⟩
  · exact ⟨_, _, hrespond s hidle, hrespond s' hidle', by simp [hidle, hidle', hcfg]⟩
  · exact ⟨_, _, hstart s hidle, hstart s' hidle', by simp [hcfg]⟩

end Sys2Proof.Machine
end

section
/-! Scope: the reset edge (R200, R201), and the beats offered to a block that does not take them (R205, R209). -/

namespace Sys2Proof.Machine

/-! ### Beats that are not taken (R140, R141, R205, R209) -/

/-- Outside IDLE the unit port alone decides which beat is taken (R140). -/
theorem State.takenInstr_of_busy {s : State} (h : s.st ≠ .idle) :
    s.takenInstr = if s.inFires then decodeUnit s.st s.dir s.sampled.inData else none := by
  have hcmd : s.cmdFires = false := s.cmdFires_eq_false_iff.2 (.inr h)
  simp [State.takenInstr, hcmd]

/-- In a block that is not ready for a unit the command port alone decides which beat is taken (R141). -/
theorem State.takenInstr_of_not_inReady {s : State} (h : s.inReady = false) :
    s.takenInstr = if s.cmdFires then some (decodeCommand s.sampled.cmdOp s.sampled.cmdLen) else none := by
  have hin : s.inFires = false := s.inFires_eq_false_iff.2 (.inr h)
  simp [State.takenInstr, hin]

/-- No unit is accepted in IDLE or FIN (R141). -/
theorem State.inReady_of_rest {s : State} (h : s.st = .idle ∨ s.st = .fin) : s.inReady = false := by
  rcases h with hidle | hfin
  · simp [State.inReady, hidle]
  · simp [State.inReady, hfin]

section

variable {s : State} {i j : Config.Inputs} {rest : List Config.Inputs}

/-- The ports at an edge whose drive is listed (R34). -/
theorem State.sampled_of_cons (h : s.inputs = i :: rest) :
    s.sampled = { i with cmdLen := narrow s.cfg.lenW i.cmdLen, inData := narrow s.cfg.charW i.inData } := by
  rw [State.sampled, h, List.headD_cons]

/-- Two listed drives that agree on `rst_n` and `out_ready` make the same step where they make the same beat taken
(R148). -/
theorem step_congr_drive (hinputs : s.inputs = i :: rest) (hrst : j.rstN = i.rstN) (hout : j.outReady = i.outReady)
    (htaken : State.takenInstr { s with inputs := j :: rest } = s.takenInstr) :
    step { s with inputs := j :: rest } = step s := by
  have hsampled := State.sampled_of_cons hinputs
  refine step_congr ?reset htaken ?out ?begin ?edge
  case reset => rw [State.resetDriven, State.resetDriven, hsampled, State.sampled_of_cons rfl, hrst]
  case out => rw [State.outFires, State.outFires, hsampled, State.sampled_of_cons rfl, hout]
  case begin => rw [State.beginEdge, State.beginEdge, State.nextCycle, State.nextCycle, hinputs]; rfl
  case edge => rw [State.resetEdge, State.resetEdge, hinputs]; rfl

end

/-- Settles O42: the port that is not ready has no part in which beat is taken. -/
theorem untakenBeatsMayChange : Obligations.UntakenBeatsMayChange := by
  intro s i rest hinputs
  have hsampled := State.sampled_of_cons hinputs
  refine ⟨fun hbusy offered op n => ?command, fun hready offered u => ?unit⟩
  case command =>
    refine step_congr_drive hinputs rfl rfl ?_
    refine Eq.trans (State.takenInstr_of_busy hbusy) ?_
    rw [State.takenInstr_of_busy hbusy, State.inFires, State.inFires, hsampled]
    rfl
  case unit =>
    refine step_congr_drive hinputs rfl rfl ?_
    refine Eq.trans (State.takenInstr_of_not_inReady hready) ?_
    rw [State.takenInstr_of_not_inReady hready, State.cmdFires, State.cmdFires, hsampled]
    rfl

/-- Settles O41: the block at rest is not ready, so the unit may change. -/
theorem unitsOfferedAtRestHaveNoEffect : Obligations.UnitsOfferedAtRestHaveNoEffect := by
  intro s i rest offered u hinputs hrest
  have hready := State.inReady_of_rest hrest
  exact ⟨State.unitTaken_eq_none (s.inFires_eq_false_iff.2 (.inr hready)),
    (untakenBeatsMayChange s i rest hinputs).2 hready offered u⟩

/-! ### The reset edge (R200, R201) -/

/-- Nothing crosses a port at a reset edge (R200). -/
theorem State.nothing_taken_of_resetDriven {s : State} (h : s.resetDriven = true) :
    s.unitTaken = none ∧ s.beatTaken = none := by
  simp [State.unitTaken, State.beatTaken, h]

/-- Every entry of the cleared FIFO reads 0 (R21). -/
theorem Carry.get_zero (i : Fin 4) : Carry.get { c0 := 0, c1 := 0, c2 := 0, c3 := 0 } i = 0 := by
  fin_cases i <;> rfl

/-- Settles O1: the registers are those of `State.resetWith`, and its IDLE state takes the command offered next. -/
theorem resetEdgeGivesResetValues : Obligations.ResetEdgeGivesResetValues := by
  intro s hreset
  obtain ⟨hunit, hbeat⟩ := State.nothing_taken_of_resetDriven hreset
  refine ⟨hunit, hbeat, s.resetEdge, step_of_resetDriven hreset, rfl, rfl, rfl, rfl, rfl, Carry.get_zero, rfl, rfl, rfl,
    rfl, rfl, rfl, rfl, rfl, rfl, rfl, rfl, ?command⟩
  case command => exact fun _ hv => State.takenInstr_of_command rfl hv

/-- Settles O2: the reset edge reads the parameters, the drive and the cycle count of its state alone. -/
theorem resetStateMeetsTheInvariants : Obligations.ResetStateMeetsTheInvariants := by
  refine ⟨fun s hreset hcfg => ?edge, fun p inputs cycle => ?invariants⟩
  case edge =>
    rw [step_of_resetDriven hreset, State.resetEdge, hcfg]
    rfl
  case invariants => exact ⟨controlInv_resetWith p inputs cycle, dataInv_resetWith p inputs cycle⟩

end Sys2Proof.Machine
end
